-- ==== Sys2Proof/Word.lean ====
section
/-! DEFINITION. The word types of the R2FFT engine (spec 00_scope R6, R7): the 64-bit register and bus
word, the byte of the window, the 32-bit integer operand and the offset of a location in the window. -/

namespace Sys2Proof

/-- `XLEN`: a register, a buffer element or a bus word (00_scope R6; 10_state, introduction). -/
abbrev Word := BitVec 64

/-- One byte of the window (20_memory R64). -/
abbrev Byte := BitVec 8

/-- `ILEN`: an unsigned integer operand, `LEN`, `TAPS`, `NPOT_IN` or `NPOT_OUT` (00_scope R6). -/
abbrev IntWord := BitVec 32

/-- A byte offset from `BASE`. The window has 0x0200_0000 = 2^25 bytes (00_scope R6; 20_memory R61), so
25 bits name exactly the bytes that are addressed to the engine at all (20_memory R65). -/
abbrev Offset := BitVec 25

end Sys2Proof
end

