-- ==== Sys2Proof/Syntax.lean ====
section
/-! DEFINITION. The commands of the engine (30_encoding): one constructor per row of the opcode table, the
fields of a command word, and the names under which decoding rejects a word. -/

namespace Sys2Proof

/-- `WIN`, the five windows (30_encoding R87). -/
inductive Window where
  | rect
  | hann
  | hamming
  | blackman
  | kaiser
  deriving DecidableEq, Repr

/-- The seven commands (00_scope R2; 30_encoding R82 to R84). The design commands carry the window and the
modifier bits `NORM`, `F2V`, `KBV` of their word (30_encoding R88); every other operand is implicit (R89). -/
inductive Instr where
  /-- `FFT`, 40_transform R106. -/
  | fft
  /-- `IFFT`, 40_transform R107. -/
  | ifft
  /-- `NPOT`, 41_npot R120. -/
  | npot
  /-- `FIRLP`, 42_fir_design R136. -/
  | firlp (win : Window) (norm f2v kbv : Bool)
  /-- `FIRHP`, 42_fir_design R137. -/
  | firhp (win : Window) (norm f2v kbv : Bool)
  /-- `FIRBP`, 42_fir_design R138. -/
  | firbp (win : Window) (norm f2v kbv : Bool)
  /-- `FIRBS`, 42_fir_design R139. -/
  | firbs (win : Window) (norm f2v kbv : Bool)
  deriving DecidableEq, Repr

/-- The fields of a command word, by position (30_encoding R81). -/
structure CommandFields where
  /-- `OPC`, bits 3:0. -/
  opc : BitVec 4
  /-- `INV`, bit 4. -/
  inv : Bool
  /-- `SHAPE`, bits 6:5. -/
  shape : BitVec 2
  /-- Reserved bit 7. -/
  bit7 : Bool
  /-- `WIN`, bits 10:8. -/
  win : BitVec 3
  /-- Reserved bit 11. -/
  bit11 : Bool
  /-- `NORM`, bit 12. -/
  norm : Bool
  /-- `F2V`, bit 13. -/
  f2v : Bool
  /-- `KBV`, bit 14. -/
  kbv : Bool
  /-- Reserved bits 63:15. -/
  high : BitVec 49
  deriving DecidableEq, Repr

/-- Why a word decodes to no command (30_encoding R90, R91). All of them are the one `ILLEGAL` of the
spec: the machine completes each with `E_ILLEGAL_CMD`. -/
inductive Illegal where
  /-- One of bits 63:15 is set. -/
  | reservedHighBits
  /-- Bit 7 or bit 11 is set. -/
  | reservedBit
  /-- `OPC` is 0 or 4 to 15. -/
  | reservedOpcode
  /-- `WIN` is 5 to 7. -/
  | reservedWindow
  /-- A modifier bit is set that the word's format does not have. -/
  | strayModifier
  deriving DecidableEq, Repr

/-- What decoding gives: a command, or `ILLEGAL` (30_encoding R90). -/
inductive Decoded where
  | command (i : Instr)
  | illegal (why : Illegal)
  deriving DecidableEq, Repr

end Sys2Proof
end

