-- ==== Sys2Proof/WellFormed.lean ====
section
/-! DEFINITION. Which fields make a command (30_encoding R81 to R88, R91), as checks over the fields of a
word. The type `Instr` can hold no window code 5 to 7, no stray modifier and no reserved bit, so every
`Instr` passes: `Instr.wellFormed` says so by the same checks. -/

namespace Sys2Proof

/-- Bits 7, 11 and 63:15 are zero (30_encoding R80, R81). -/
def CommandFields.reservedClear (f : CommandFields) : Bool :=
  !f.bit7 && !f.bit11 && f.high == 0

/-- `SHAPE`, `WIN`, `NORM`, `F2V`, `KBV` are zero, as formats X and P need (30_encoding R82, R83). -/
def CommandFields.designClear (f : CommandFields) : Bool :=
  f.shape == 0 && f.win == 0 && !f.norm && !f.f2v && !f.kbv

/-- `WIN` is 0 to 4 (30_encoding R87). -/
def CommandFields.windowKnown (f : CommandFields) : Bool :=
  decide (f.win.toNat ≤ 4)

/-- The fields fit the format their `OPC` selects; `OPC` 0 and 4 to 15 select none (30_encoding R82 to
R85). -/
def CommandFields.formatOk (f : CommandFields) : Bool :=
  match f.opc.toNat with
  | 1 => f.designClear
  | 2 => !f.inv && f.designClear
  | 3 => !f.inv && f.windowKnown
  | _ => false

/-- The fields are those of one of the 163 command words (30_encoding R90). -/
def CommandFields.wellFormed (f : CommandFields) : Bool :=
  f.reservedClear && f.formatOk

/-- The code of a window (30_encoding R87). -/
def Window.code : Window → BitVec 3
  | .rect => 0
  | .hann => 1
  | .hamming => 2
  | .blackman => 3
  | .kaiser => 4

/-- The fields of a design command of a shape (30_encoding R84). -/
def CommandFields.design (shape : BitVec 2) (win : Window) (norm f2v kbv : Bool) : CommandFields :=
  { opc := 3, inv := false, shape := shape, bit7 := false, win := win.code, bit11 := false
    norm := norm, f2v := f2v, kbv := kbv, high := 0 }

/-- The fields of a command with no modifier but `INV` (30_encoding R82, R83). -/
def CommandFields.plain (opc : BitVec 4) (inv : Bool) : CommandFields :=
  { opc := opc, inv := inv, shape := 0, bit7 := false, win := 0, bit11 := false
    norm := false, f2v := false, kbv := false, high := 0 }

/-- The fields that stand for a command (30_encoding R82 to R84, R86). -/
def Instr.fields : Instr → CommandFields
  | .fft => .plain 1 false
  | .ifft => .plain 1 true
  | .npot => .plain 2 false
  | .firlp win norm f2v kbv => .design 0 win norm f2v kbv
  | .firhp win norm f2v kbv => .design 1 win norm f2v kbv
  | .firbp win norm f2v kbv => .design 2 win norm f2v kbv
  | .firbs win norm f2v kbv => .design 3 win norm f2v kbv

/-- A command is well formed when its fields are. -/
def Instr.wellFormed (i : Instr) : Bool :=
  i.fields.wellFormed

end Sys2Proof
end

