-- ==== Sys2Proof/Decode.lean ====
section
/-! DEFINITION. Decoding of a command word (30_encoding R90), total and rejecting by name; the fields of a
word (R81); and the encoder (R82 to R84). -/

namespace Sys2Proof

/-- `w[lo + n - 1 : lo]` as an integer (00_scope R7). -/
def bits (w : Word) (lo n : Nat) : Nat :=
  (w.extractLsb' lo n).toNat

/-- The fields of a word, by position (30_encoding R81). -/
def commandFields (w : Word) : CommandFields :=
  { opc := w.extractLsb' 0 4, inv := w.getLsbD 4, shape := w.extractLsb' 5 2, bit7 := w.getLsbD 7
    win := w.extractLsb' 8 3, bit11 := w.getLsbD 11, norm := w.getLsbD 12, f2v := w.getLsbD 13
    kbv := w.getLsbD 14, high := w.extractLsb' 15 49 }

/-- The window a `WIN` code names, if any (30_encoding R87). -/
def decodeWindow (code : Nat) : Option Window :=
  match code with
  | 0 => some .rect
  | 1 => some .hann
  | 2 => some .hamming
  | 3 => some .blackman
  | 4 => some .kaiser
  | _ => none

/-- The design command of a `SHAPE` code (30_encoding R86). -/
def decodeShape (shape : Nat) (win : Window) (norm f2v kbv : Bool) : Instr :=
  match shape with
  | 0 => .firlp win norm f2v kbv
  | 1 => .firhp win norm f2v kbv
  | 2 => .firbp win norm f2v kbv
  | _ => .firbs win norm f2v kbv

/-- Decoding, total on all words (30_encoding R90), in the order of the rule's tests. -/
def decode (v : Word) : Decoded :=
  if bits v 15 49 ≠ 0 then .illegal .reservedHighBits
  else if v.getLsbD 7 || v.getLsbD 11 then .illegal .reservedBit
  else match bits v 0 4 with
    | 1 =>
      if bits v 5 10 ≠ 0 then .illegal .strayModifier
      else .command (if v.getLsbD 4 then .ifft else .fft)
    | 2 =>
      if bits v 4 11 ≠ 0 then .illegal .strayModifier
      else .command .npot
    | 3 =>
      if v.getLsbD 4 then .illegal .strayModifier
      else match decodeWindow (bits v 8 3) with
        | none => .illegal .reservedWindow
        | some win =>
          .command (decodeShape (bits v 5 2) win (v.getLsbD 12) (v.getLsbD 13) (v.getLsbD 14))
    | _ => .illegal .reservedOpcode

/-- The instruction the decoder reads from `nbits` bits `w`, the bits above them being zero. The engine has
one command length, the 64 bits written to `CMD` (30_encoding R80), so there is one word to lay out and no
byte order to choose: the port moves whole words (20_memory R63). -/
def decodeTableWord (nbits w : Nat) : Option Instr :=
  match decode (BitVec.ofNat 64 (w % 2 ^ nbits)) with
  | .command i => some i
  | .illegal _ => none

/-- The `WIN` code of a window (30_encoding R87). -/
def encodeWindow : Window → Nat
  | .rect => 0
  | .hann => 1
  | .hamming => 2
  | .blackman => 3
  | .kaiser => 4

/-- The word of a design command: `0x03 | SHAPE<<5 | WIN<<8 | NORM<<12 | F2V<<13 | KBV<<14`
(30_encoding R84). -/
def designWord (shape : Nat) (win : Window) (norm f2v kbv : Bool) : Word :=
  BitVec.ofNat 64 (0x03 ||| shape <<< 5 ||| encodeWindow win <<< 8 ||| norm.toNat <<< 12
    ||| f2v.toNat <<< 13 ||| kbv.toNat <<< 14)

/-- The word of a command (30_encoding R82 to R84). -/
def encode : Instr → Word
  | .fft => 0x0000000000000001
  | .ifft => 0x0000000000000011
  | .npot => 0x0000000000000002
  | .firlp win norm f2v kbv => designWord 0 win norm f2v kbv
  | .firhp win norm f2v kbv => designWord 1 win norm f2v kbv
  | .firbp win norm f2v kbv => designWord 2 win norm f2v kbv
  | .firbs win norm f2v kbv => designWord 3 win norm f2v kbv

end Sys2Proof
end

