-- ==== Sys2Proof/Config.lean ====
section
/-! DEFINITION. What an implementation fixes (00_scope R6, R10; 10_state R50): the named limits with the
spec's values, and, as constants WITHOUT a body, the values the spec leaves open. Nothing in Lean can
evaluate a constant of the second kind, so a theorem about the model holds for every choice of it. -/

namespace Sys2Proof.Config

/-- `FFT_MAX_LEN` = 2^20: the depth of `RE` and of `IM` (00_scope R6; 10_state R42, R43). -/
def fftMaxLen : Nat := 1048576

/-- `TAPS_MAX` = 2^18 - 1: the largest `TAPS` a design command accepts (00_scope R6). -/
def tapsMax : Nat := 262143

/-- `TAP_DEPTH` = 2^18: the depth of `TAP` (00_scope R6; 10_state R44). -/
def tapDepth : Nat := 262144

/-- `I0_MAX_TERMS`: the cap of the Bessel series (00_scope R6; 42_fir_design R146). -/
def i0MaxTerms : Nat := 50

/-- The bytes of the engine's window on the host bus (00_scope R6; 20_memory R61). -/
def windowBytes : Nat := 0x02000000

/-- FREE VALUE (log 1): the stream of values that nothing constrains. State's `draws` says how many are
used up, so that every draw is a fresh one. It serves the NaN patterns (log 2), the buffer reads while
busy (log 4) and the active range after a reset while busy (log 5). -/
opaque freeWord : Nat → Word

/-- FREE VALUE (log 3): the byte at a buffer's window offset that nothing has written since power-up;
unspecified but the same at every read (20_memory R75). -/
opaque powerUpByte : Nat → Byte

/-- OPEN PARAMETER (log 6): what `SIN` gives for a finite operand other than a zero (00_scope R9). -/
opaque sinBits : Word → Word

/-- OPEN PARAMETER (log 6): what `COS` gives for a finite operand other than a zero (00_scope R9). -/
opaque cosBits : Word → Word

/-- OPEN PARAMETER (log 7): `KAISER_BETA_DEFAULT`, any value of type `F` (42_fir_design R147). -/
opaque kaiserBetaDefault : Word

/-- OPEN PARAMETER (log 8): `BASE / 8` (20_memory R61: `BASE` is a multiple of 8). -/
opaque baseIndex : Nat

/-- `BASE`: where the platform put the window (20_memory R61). -/
def base : Nat := 8 * baseIndex

end Sys2Proof.Config
end

