-- ==== Sys2Proof/Machine/Arith.lean ====
section
/-! DEFINITION. The primitives the commands are written over, under the spec's own names (00_scope R8, R9,
R10, R12). The commands' algorithms are written once over any such set of primitives. The machine runs them
over binary64 (Machine/Float.lean); the exact-arithmetic meaning of the spec (40_transform R108; 42_fir_design
R157) reads the same text over the real numbers (Exact.lean). -/

namespace Sys2Proof.Machine

/-- The constants of 00_scope R10, by name. -/
inductive Const where
  | pi
  | twoPi
  | eps
  | one
  | negOne
  | two
  | half
  | c054
  | c046
  | c042
  | c008
  | zero
  deriving DecidableEq, Repr

/-- The primitive operations (00_scope R8, R9) over values of type `α`. `flt a b` is `a < b` and `feq a b`
is `a == b`, each the comparison of R8. -/
structure Arith (α : Type) where
  fadd : α → α → α
  fsub : α → α → α
  fmul : α → α → α
  fdiv : α → α → α
  fsqrt : α → α
  /-- `SIN` -/
  sin : α → α
  /-- `COS` -/
  cos : α → α
  tofloat : Nat → α
  flt : α → α → Bool
  feq : α → α → Bool
  const : Const → α

variable {α : Type}

/-- `cadd` (00_scope R12). -/
def cadd (A : Arith α) (x y : α × α) : α × α :=
  (A.fadd x.1 y.1, A.fadd x.2 y.2)

/-- `csub` (00_scope R12). -/
def csub (A : Arith α) (x y : α × α) : α × α :=
  (A.fsub x.1 y.1, A.fsub x.2 y.2)

/-- `cmul` (00_scope R12). -/
def cmul (A : Arith α) (x y : α × α) : α × α :=
  (A.fsub (A.fmul x.1 y.1) (A.fmul x.2 y.2), A.fadd (A.fmul x.1 y.2) (A.fmul x.2 y.1))

/-- `conj` (00_scope R12); no command uses it. -/
def conj (A : Arith α) (x : α × α) : α × α :=
  (x.1, A.fsub (A.const .zero) x.2)

/-- `cdiv` (00_scope R12); no command uses it. -/
def cdiv (A : Arith α) (x y : α × α) : α × α :=
  let q := A.fadd (A.fmul y.1 y.1) (A.fmul y.2 y.2)
  (A.fdiv (A.fadd (A.fmul x.1 y.1) (A.fmul x.2 y.2)) q,
    A.fdiv (A.fsub (A.fmul x.2 y.1) (A.fmul x.1 y.2)) q)

/-- `cabs`, without overflow protection (00_scope R12). -/
def cabs (A : Arith α) (x : α × α) : α :=
  A.fsqrt (A.fadd (A.fmul x.1 x.1) (A.fmul x.2 x.2))

/-- `cis`, the unit phasor of angle `t` (00_scope R12). -/
def cis (A : Arith α) (t : α) : α × α :=
  (A.cos t, A.sin t)

end Sys2Proof.Machine
end

