-- ==== Sys2Proof/Machine/Float.lean ====
section
/-! DEFINITION. The numeric type `F` = IEEE 754 binary64 with its primitives (00_scope R8, R9, R10), computed
exactly and rounded once. Every finite binary64 value is an integer multiple of 2^-1074; a finite value is
held as its sign and that integer, its `units`, so that sums and products are exact natural numbers before
the one rounding. The corner results of IEEE 754 that R8 leaves to the standard are PRESUMED (log 17). -/

namespace Sys2Proof.Machine

/-- A value of type `F` (00_scope R8). Of a NaN only that it is one is a fact: the result of an operation is
`nan none`, whose pattern nothing fixes; `nan (some w)` is a NaN that was read as the pattern `w` and has
only been moved, so that it can be put back unchanged (40_transform R102; log 2). -/
inductive F where
  | nan (kept : Option Word)
  | inf (neg : Bool)
  | fin (neg : Bool) (units : Nat)
  deriving DecidableEq, Repr

/-! ### Rounding -/

/-- The first number of units beyond every finite value: 2^1024 = 2^2098 units. -/
def overflowUnits : Nat := 2 ^ 2098

/-- The spacing of binary64 values around `t` units: 1 below 2^53, then 2^(log2 t - 52). -/
def spacing (t : Nat) : Nat :=
  2 ^ (Nat.log2 t - 52)

/-- `p / d` to the nearest integer, ties to the even one. -/
def roundHalfEven (p d : Nat) : Nat :=
  let k := p / d
  let r := p % d
  if d < 2 * r ∨ (2 * r = d ∧ k % 2 = 1) then k + 1 else k

/-- The magnitude `p / q` units rounded to the nearest multiple of its spacing, ties to even
(00_scope R8), as if the exponent had no upper bound. -/
def roundUnits (p q : Nat) : Nat :=
  let d := spacing (p / q)
  roundHalfEven p (q * d) * d

/-- The correctly rounded value of sign `neg` and magnitude `p / q` units; an overflow is an infinity. -/
def roundF (neg : Bool) (p q : Nat) : F :=
  let n := roundUnits p q
  if overflowUnits ≤ n then .inf neg else .fin neg n

/-! ### Bit patterns -/

/-- A value of 1 in units. -/
def oneUnits : Nat := 2 ^ 1074

/-- The value a 64-bit pattern stands for: sign bit 63, exponent 62:52 (bias 1023), fraction 51:0
(00_scope R8). -/
def F.ofWord (w : Word) : F :=
  let neg := w.getLsbD 63
  let e := (w.extractLsb' 52 11).toNat
  let f := (w.extractLsb' 0 52).toNat
  if e = 2047 then (if f = 0 then .inf neg else .nan (some w))
  else if e = 0 then .fin neg f
  else .fin neg ((2 ^ 52 + f) * 2 ^ (e - 1))

/-- The NaN pattern that a free word selects: exponent all ones, sign and fraction as the word has them, the
fraction made non-zero if it is zero. Every NaN pattern is selected by some word (93 U3; log 2). -/
def nanPattern (u : Word) : Word :=
  let w := (u &&& 0x800FFFFFFFFFFFFF) ||| 0x7FF0000000000000
  if w &&& 0x000FFFFFFFFFFFFF = 0 then w ||| 0x0008000000000000 else w

/-- The biased exponent and fraction, as one 63-bit number, of a finite value. -/
def finiteCode (n : Nat) : Nat :=
  if n < 2 ^ 52 then n
  else
    let e := Nat.log2 n - 52
    e * 2 ^ 52 + n / 2 ^ e

/-- The pattern of a value. `free` supplies the sign and payload of a NaN that an operation produced. -/
def F.toWord (free : Word) : F → Word
  | .nan (some w) => w
  | .nan none => nanPattern free
  | .inf neg => BitVec.ofNat 64 (neg.toNat * 2 ^ 63 + 2047 * 2 ^ 52)
  | .fin neg n => BitVec.ofNat 64 (neg.toNat * 2 ^ 63 + finiteCode n)

/-! ### The primitive operations (00_scope R8) -/

/-- A NaN whose sign and payload are unspecified. -/
def F.anyNan : F := .nan none

/-- The value with the opposite sign. -/
def F.negate : F → F
  | .nan _ => .anyNan
  | .inf neg => .inf (!neg)
  | .fin neg n => .fin (!neg) n

/-- `fadd`. Two equal magnitudes of opposite sign give `+0`. -/
def fadd : F → F → F
  | .nan _, _ => .anyNan
  | _, .nan _ => .anyNan
  | .inf a, .inf b => if a = b then .inf a else .anyNan
  | .inf a, .fin _ _ => .inf a
  | .fin _ _, .inf b => .inf b
  | .fin a m, .fin b n =>
    if a = b then roundF a (m + n) 1
    else if n < m then roundF a (m - n) 1
    else if m < n then roundF b (n - m) 1
    else .fin false 0

/-- `fsub`. -/
def fsub (x y : F) : F :=
  fadd x y.negate

/-- `fmul`. -/
def fmul : F → F → F
  | .nan _, _ => .anyNan
  | _, .nan _ => .anyNan
  | .inf a, .inf b => .inf (a ^^ b)
  | .inf a, .fin b n => if n = 0 then .anyNan else .inf (a ^^ b)
  | .fin a m, .inf b => if m = 0 then .anyNan else .inf (a ^^ b)
  | .fin a m, .fin b n => roundF (a ^^ b) (m * n) oneUnits

/-- `fdiv`. -/
def fdiv : F → F → F
  | .nan _, _ => .anyNan
  | _, .nan _ => .anyNan
  | .inf _, .inf _ => .anyNan
  | .inf a, .fin b _ => .inf (a ^^ b)
  | .fin a _, .inf b => .fin (a ^^ b) 0
  | .fin a m, .fin b n =>
    if n = 0 then (if m = 0 then .anyNan else .inf (a ^^ b))
    else roundF (a ^^ b) (m * oneUnits) n

/-- The integer square root of `n` below `2 ^ fuel * (r + 1)`, one bit at a time from the top. -/
def isqrtBits (n : Nat) : (fuel : Nat) → (r : Nat) → Nat
  | 0, r => r
  | fuel + 1, r =>
    let t := r + 2 ^ fuel
    isqrtBits n fuel (if t * t ≤ n then t else r)

/-- The integer square root of `n`. -/
def isqrt (n : Nat) : Nat :=
  isqrtBits n (Nat.log2 n / 2 + 1) 0

/-- The root of `n` units, correctly rounded: the exact root lies on or strictly above the integer root
`r`, and one half stands for "strictly above", which lies on the same side of every rounding boundary. -/
def sqrtUnits (n : Nat) : F :=
  let x := n * oneUnits
  let r := isqrt x
  roundF false (2 * r + (if r * r = x then 0 else 1)) 2

/-- `fsqrt`. The root of a negative value is a NaN; `-0` is its own root. -/
def fsqrt : F → F
  | .nan _ => .anyNan
  | .inf neg => if neg then .anyNan else .inf false
  | .fin neg n => if n = 0 then .fin neg 0 else if neg then .anyNan else sqrtUnits n

/-- `tofloat`, exact for the integers below 2^53 the engine converts. -/
def tofloat (i : Nat) : F :=
  .fin false (i * oneUnits)

/-- `isfinite`. -/
def isfinite : F → Bool
  | .fin _ _ => true
  | _ => false

/-- The place of a value in the order of `F`, `none` for a NaN. Both zeros have the same place. -/
def F.rank : F → Option Int
  | .nan _ => none
  | .inf neg => some (if neg then -(overflowUnits : Int) else overflowUnits)
  | .fin neg n => some (if neg then -(n : Int) else n)

/-- `a < b`: false when an operand is a NaN. -/
def flt (a b : F) : Bool :=
  match a.rank, b.rank with
  | some x, some y => decide (x < y)
  | _, _ => false

/-- `a == b`: false when an operand is a NaN; `+0 == -0`. -/
def feq (a b : F) : Bool :=
  match a.rank, b.rank with
  | some x, some y => decide (x = y)
  | _, _ => false

/-! ### `SIN` and `COS` (00_scope R9; log 6) -/

/-- A finite value made from any pattern: a pattern of a non-finite value loses the top bit of its
exponent. Every finite value is made from some pattern. -/
def finiteOf (w : Word) : F :=
  if w.extractLsb' 52 11 = 2047 then F.ofWord (w &&& 0xBFFFFFFFFFFFFFFF) else F.ofWord w

/-- `SIN`: `SIN(+0) = +0`, `SIN(-0) = -0`, a NaN for a non-finite operand, else the configuration's finite
value, a function of the operand alone. -/
def sinF (x : F) : F :=
  match x with
  | .fin neg n => if n = 0 then .fin neg 0 else finiteOf (Config.sinBits (x.toWord 0))
  | _ => .anyNan

/-- `COS`: `COS(+0) = COS(-0) = 1.0`, a NaN for a non-finite operand, else the configuration's finite value,
a function of the operand alone. -/
def cosF (x : F) : F :=
  match x with
  | .fin _ n => if n = 0 then .fin false oneUnits else finiteOf (Config.cosBits (x.toWord 0))
  | _ => .anyNan

/-- The patterns of the constants (00_scope R10). -/
def constWord : Const → Word
  | .pi => 0x400921FB54442D18
  | .twoPi => 0x401921FB54442D18
  | .eps => 0x3D719799812DEA11
  | .one => 0x3FF0000000000000
  | .negOne => 0xBFF0000000000000
  | .two => 0x4000000000000000
  | .half => 0x3FE0000000000000
  | .c054 => 0x3FE147AE147AE148
  | .c046 => 0x3FDD70A3D70A3D71
  | .c042 => 0x3FDAE147AE147AE1
  | .c008 => 0x3FB47AE147AE147B
  | .zero => 0x0000000000000000

/-- The primitives of the machine. -/
def binary64 : Arith F where
  fadd := fadd
  fsub := fsub
  fmul := fmul
  fdiv := fdiv
  fsqrt := fsqrt
  sin := sinF
  cos := cosF
  tofloat := tofloat
  flt := flt
  feq := feq
  const := fun c => F.ofWord (constWord c)

end Sys2Proof.Machine
end

