-- ==== Sys2Proof/Machine/State.lean ====
section
/-! DEFINITION. The state of one engine instance (10_state R20), the host's actions on it (00_scope R14,
R15), and the state after power-up (10_state R49). -/

namespace Sys2Proof.Machine

/-- The error codes (10_state R28; 60_exceptions R171). Codes 5 to 15 are never produced: there is no
constructor for them. -/
inductive ErrCode where
  /-- 0 `E_NONE` -/
  | noError
  /-- 1 `E_INVALID_INPUT` -/
  | invalidInput
  /-- 2 `E_INVALID_PARAM` -/
  | invalidParam
  /-- 3 `E_MISSING_PARAM` -/
  | missingParam
  /-- 4 `E_ILLEGAL_CMD` -/
  | illegalCmd
  deriving DecidableEq, Repr

/-- One step of the host (00_scope R14, R15): an access of `width` bytes at a window offset, or reset. -/
inductive HostAction where
  /-- `MemRead(offset, width)` (00_scope R11; 20_memory R66). -/
  | read (width : Nat) (offset : Offset)
  /-- `MemWrite(offset, width, value)` (00_scope R11; 20_memory R67). -/
  | write (width : Nat) (offset : Offset) (value : Word)
  /-- The reset input is asserted (70_reset_and_hazards R190). -/
  | reset
  deriving DecidableEq, Repr

/-- One entry of the host's script: an action, and whether a busy engine executes before it is taken. The
scheduler's choice between the two agents (10_state R50; 70_reset_and_hazards R201) is this mark. -/
structure HostTurn where
  engineFirst : Bool
  action : HostAction
  deriving DecidableEq, Repr

/-- What the port answers to an access (00_scope R15; 60_exceptions R180, R181). -/
inductive PortAnswer where
  /-- A read was performed. -/
  | value (v : Word)
  /-- A write was performed, or dropped while busy. -/
  | ok
  /-- The access is not an aligned 64-bit access of a mapped offset. -/
  | busError
  deriving DecidableEq, Repr

/-- The state. `ID` and `LIMITS` are constants and `CMD` holds nothing (10_state R21, R22, R40): they are
in the operation that reads registers, not here (log 15). -/
structure State where
  /-- `STATUS.BUSY` (10_state R24). -/
  busy : Bool
  /-- `STATUS.DONE` (10_state R25). -/
  done : Bool
  /-- `STATUS.ERR` (10_state R26). -/
  err : Bool
  /-- `STATUS.OVR` (10_state R27). -/
  ovr : Bool
  /-- `STATUS.ERRCODE` (10_state R28). -/
  errcode : ErrCode
  /-- `STATUS.WNS` (10_state R29). -/
  wns : Bool
  /-- `IE[0]` = `DONE_IE` (10_state R30). -/
  ie : Bool
  /-- `LEN[31:0]` (10_state R31). -/
  len : IntWord
  /-- `NPOT_IN[31:0]` (10_state R32). -/
  npotIn : IntWord
  /-- `NPOT_OUT[31:0]` (10_state R33). -/
  npotOut : IntWord
  /-- `TAPS[31:0]` (10_state R34). -/
  taps : IntWord
  /-- `SRATE` (10_state R35). -/
  srate : Word
  /-- `F1` (10_state R36). -/
  f1 : Word
  /-- `F2` (10_state R37). -/
  f2 : Word
  /-- `KBETA` (10_state R38). -/
  kbeta : Word
  /-- `LASTCMD` (10_state R39), also the latched command (R47). -/
  lastcmd : Word
  /-- The bytes of `RE`, `IM` and `TAP` that something has written, by window offset, rising
  (10_state R42 to R44; 20_memory R61; log 14). -/
  mem : List Host.Cell
  /-- The MODEL's: how many free values have been drawn (log 1). -/
  draws : Nat
  /-- The MODEL's: the host's actions still to come (log 9). -/
  script : List HostTurn
  /-- The MODEL's: what the port answered to the last host access (log 10). -/
  answer : Option PortAnswer
  /-- The MODEL's: some command has completed in error since power-up. Set whenever `ERR <- 1`, never
  cleared, not even by reset (60_exceptions R178; 10_state R26; log 25). -/
  everFailed : Bool
  deriving DecidableEq, Repr

/-- The engine has no fault: it never hangs and never traps, an error is a completion and a bus error is an
answer of the port, after which the machine goes on (00_scope R15; 60_exceptions R170, R180; log 11). So
nothing raises a fault and there is no constructor. -/
inductive Fault where
  deriving DecidableEq, Repr

/-- Why a step has no meaning. -/
inductive Refusal where
  /-- Raised by `exec` for a command without a meaning; every command has one, so nothing raises it. Safe. -/
  | notModelled (mnemonic : String)
  deriving DecidableEq, Repr

/-- The machine after power-up (10_state R49; 70_reset_and_hazards R191): every register at the value the
spec states, no buffer element written. The last four fields are the model's own (logs 1, 9, 10, 25). -/
def State.reset : State :=
  { busy := false, done := false, err := false, ovr := false, errcode := .noError, wns := false
    ie := false, len := 0, npotIn := 0, npotOut := 0, taps := 0, srate := 0, f1 := 0, f2 := 0
    kbeta := 0, lastcmd := 0, mem := [], draws := 0, script := [], answer := none
    everFailed := false }

end Sys2Proof.Machine
end

