-- ==== Sys2Proof/Machine/Ops.lean ====
section
/-! DEFINITION. The named operations over the buffers and the registers: bytes, elements and runs of
elements (20_memory R60 to R64, R68), acceptance of a command (30_encoding R93), and its two completions,
with and without error (60_exceptions R177). -/

namespace Sys2Proof.Machine

/-! ### Bytes -/

/-- The buffers' bytes by window offset: only those something has written are listed, offsets rising
(log 14). -/
abbrev Memory := List Host.Cell

/-- The byte listed at an offset. THE ONE DEFINITION of what an unlisted address holds: no value; no entry
of the list can equal that. -/
def lookupByte : Memory → Nat → Option Byte
  | [], _ => none
  | (b, v) :: rest, a => if a = b then some v else lookupByte rest a

/-- The byte at an offset: where nothing has been written, the unspecified but stable power-up content
(20_memory R75; log 3). -/
def readByte (m : Memory) (a : Nat) : Byte :=
  (lookupByte m a).getD (Config.powerUpByte a)

/-- Put a byte at an offset, at its place in the rising order. -/
def storeByte : Memory → Nat → Byte → Memory
  | [], a, v => [(a, v)]
  | (b, w) :: rest, a, v =>
    if a < b then (a, v) :: (b, w) :: rest
    else if a = b then (a, v) :: rest
    else (b, w) :: storeByte rest a v

/-- Offsets rise from `lo` on and lie below the end of `TAP`, 0x01A0_0000. -/
def risingFrom (lo : Nat) : Memory → Bool
  | [] => true
  | (a, _) :: rest => decide (lo ≤ a) && decide (a < 0x01A00000) && risingFrom (a + 1) rest

/-- THE CANONICAL FORM: offsets strictly rise and lie in the buffers' ranges, which run without a gap from
0x0080_0000 to 0x019F_FFFF (20_memory R61). No entry can equal what an unlisted offset holds, which is no
value. -/
def Memory.wf (m : Memory) : Bool :=
  risingFrom 0x00800000 m

/-! ### Words, little-endian (20_memory R64) -/

/-- Byte `k` of a word, bits `8k+7 : 8k`. -/
def byteOf (w : Word) (k : Nat) : Byte :=
  w.extractLsb' (8 * k) 8

/-- The word whose byte `k` lies at offset `a + k`. -/
def readWord (m : Memory) (a : Nat) : Word :=
  readByte m (a + 7) ++ readByte m (a + 6) ++ readByte m (a + 5) ++ readByte m (a + 4)
    ++ readByte m (a + 3) ++ readByte m (a + 2) ++ readByte m (a + 1) ++ readByte m a

/-- Put byte `k` of the word at offset `a + k`, for the eight `k`. -/
def writeWord (m : Memory) (a : Nat) (w : Word) : Memory :=
  (List.range 8).foldl (fun m k => storeByte m (a + k) (byteOf w k)) m

/-! ### Buffers and elements -/

/-- The three buffers (10_state R42 to R44). -/
inductive Buffer where
  | re
  | im
  | tap
  deriving DecidableEq, Repr

/-- The window offset of element 0 (20_memory R61, R62). -/
def bufferBase : Buffer → Nat
  | .re => 0x00800000
  | .im => 0x01000000
  | .tap => 0x01800000

/-- How many elements the buffer has (10_state R42 to R44). -/
def bufferDepth : Buffer → Nat
  | .re => Config.fftMaxLen
  | .im => Config.fftMaxLen
  | .tap => Config.tapDepth

/-- The window offset of element `i` (20_memory R62). -/
def elemOffset (b : Buffer) (i : Nat) : Nat :=
  bufferBase b + 8 * i

/-- `B[i]`, the engine-side `BufRead` (00_scope R11). -/
def readElem (m : Memory) (b : Buffer) (i : Nat) : Word :=
  readWord m (elemOffset b i)

/-- `B[i] <- w`, the engine-side `BufWrite` (00_scope R11). -/
def writeElem (m : Memory) (b : Buffer) (i : Nat) (w : Word) : Memory :=
  writeWord m (elemOffset b i) w

/-- `B[0 .. n-1]`. -/
def loadElems (m : Memory) (b : Buffer) (n : Nat) : List Word :=
  (List.range n).map (readElem m b)

/-- `B[i], B[i+1], … <-` the words. -/
def storeElems (m : Memory) (b : Buffer) (i : Nat) : List Word → Memory
  | [] => m
  | w :: ws => storeElems (writeElem m b i w) b (i + 1) ws

/-! ### Values into buffers -/

/-- The patterns of computed values; the NaN of the `j`-th, if it is one, takes its sign and payload from
the free value of draw `draw + j` (00_scope R8; log 2). -/
def freePatterns (draw : Nat) : List F → List Word
  | [] => []
  | x :: xs => x.toWord (Config.freeWord draw) :: freePatterns (draw + 1) xs

/-- Write values to elements `0, 1, …` of a buffer. -/
def State.storeValues (s : State) (b : Buffer) (xs : List F) : State :=
  { s with mem := storeElems s.mem b 0 (freePatterns s.draws xs), draws := s.draws + xs.length }

/-- Elements `0 .. n-1` of a buffer become unspecified: each holds a free value from now on
(70_reset_and_hazards R192; log 5). -/
def State.havoc (s : State) (b : Buffer) (n : Nat) : State :=
  { s with
    mem := storeElems s.mem b 0 ((List.range n).map fun i => Config.freeWord (s.draws + i))
    draws := s.draws + n }

/-! ### Acceptance and completion -/

/-- Acceptance of a command word (30_encoding R93). -/
def State.accept (s : State) (v : Word) : State :=
  { s with lastcmd := v, busy := true, done := false, err := false, errcode := .noError, wns := false }

/-- `raise E_X`: completion in error, all that this engine has of an exception (60_exceptions R170, R177).
`STATUS` alone changes; `LASTCMD` already identifies the command. There is no return from it (R178): the
next acceptance clears the record, and only the model's own sticky bit keeps it (log 25). -/
def State.raiseError (s : State) (e : ErrCode) : State :=
  { s with err := true, errcode := e, wns := false, busy := false, done := true, everFailed := true }

/-- Completion without error; `warn` is what the command makes of `WNS` (60_exceptions R177). -/
def State.complete (s : State) (warn : Bool) : State :=
  { s with err := false, errcode := .noError, wns := warn, busy := false, done := true }

end Sys2Proof.Machine
end

