-- ==== Sys2Proof/Machine/Transform.lean ====
section
/-! DEFINITION. The transform algorithm (40_transform R101 to R105) over any primitives: the points of the
active range are a list of complex values, changed place by place as the pseudocode does. -/

namespace Sys2Proof.Machine

variable {α : Type}

/-- The length check: `true` when `N` is refused (40_transform R101). -/
def badLength (N : Nat) : Bool :=
  decide (N = 0 ∨ Config.fftMaxLen < N ∨ N &&& (N - 1) ≠ 0)

/-- `bitrev(i, p)`: bit `t` of `i` goes to bit `p - 1 - t` (40_transform R102). -/
def bitrev : (p : Nat) → (i : Nat) → Nat
  | 0, _ => 0
  | p + 1, i => i % 2 * 2 ^ p + bitrev p (i / 2)

/-- `swap(x[i], x[j])` (00_scope R11). -/
def swapAt {β : Type} (x : List β) (i j : Nat) : List β :=
  match x[i]?, x[j]? with
  | some u, some v => (x.set i v).set j u
  | _, _ => x

/-- One turn of the loop of the bit-reversal permutation (40_transform R102). -/
def permuteAt {β : Type} (p : Nat) (x : List β) (i : Nat) : List β :=
  if i < bitrev p i then swapAt x i (bitrev p i) else x

/-- The bit-reversal permutation of `N` elements, `p = log2 N` (40_transform R102). -/
def permute {β : Type} (p N : Nat) (x : List β) : List β :=
  (List.range N).foldl (permuteAt p) x

/-- The twiddle of butterfly `k` at span `s` (40_transform R103). -/
def twiddle (A : Arith α) (sgn : α) (k s : Nat) : α × α :=
  cis A (A.fdiv (A.fmul (A.fmul sgn (A.const .twoPi)) (A.tofloat k)) (A.tofloat s))

/-- Butterfly `k` of the block at `start`, span `s` (40_transform R104). -/
def butterfly (A : Arith α) (sgn : α) (s start : Nat) (x : List (α × α)) (k : Nat) : List (α × α) :=
  let a := start + k
  let b := a + s / 2
  match x[a]?, x[b]? with
  | some u, some v =>
    let t := cmul A v (twiddle A sgn k s)
    (x.set b (csub A u t)).set a (cadd A u t)
  | _, _ => x

/-- The butterflies of the block at `start` (40_transform R104). -/
def blockPass (A : Arith α) (sgn : α) (s : Nat) (x : List (α × α)) (start : Nat) : List (α × α) :=
  (List.range (s / 2)).foldl (butterfly A sgn s start) x

/-- One stage of span `s`: the blocks at `0, s, 2s, …, N - s` (40_transform R104). -/
def stage (A : Arith α) (sgn : α) (N s : Nat) (x : List (α × α)) : List (α × α) :=
  (List.range (N / s)).foldl (fun y c => blockPass A sgn s y (c * s)) x

/-- Stages `1 .. p`, stage `q` of span `2^q` (40_transform R104). -/
def stages (A : Arith α) (sgn : α) (N p : Nat) (x : List (α × α)) : List (α × α) :=
  (List.range p).foldl (fun y q => stage A sgn N (2 ^ (q + 1)) y) x

/-- Bit reversal, then the butterfly stages, with the sign of the twiddle angle given (40_transform R100). -/
def transform (A : Arith α) (sgn : α) (N : Nat) (x : List (α × α)) : List (α × α) :=
  stages A sgn N (Nat.log2 N) (permute (Nat.log2 N) N x)

/-- Inverse scaling: every part divided by `N` (40_transform R105). -/
def inverseScale (A : Arith α) (N : Nat) (x : List (α × α)) : List (α × α) :=
  x.map fun z => (A.fdiv z.1 (A.tofloat N), A.fdiv z.2 (A.tofloat N))

/-- What `FFT` makes of its `N` points (40_transform R106). -/
def forwardTransform (A : Arith α) (N : Nat) (x : List (α × α)) : List (α × α) :=
  transform A (A.const .negOne) N x

/-- What `IFFT` makes of its `N` points (40_transform R107). -/
def inverseTransform (A : Arith α) (N : Nat) (x : List (α × α)) : List (α × α) :=
  inverseScale A N (transform A (A.const .one) N x)

end Sys2Proof.Machine
end

