-- ==== Sys2Proof/Machine/Operands.lean ====
section
/-! DEFINITION. The operands of the commands (30_encoding R89) and the checks on them (40_transform R101;
42_fir_design R131). -/

namespace Sys2Proof.Machine

/-- `N = LEN[31:0]` as an integer (40_transform R100). -/
def State.pointCount (s : State) : Nat :=
  s.len.toNat

/-- The points `(RE[i], IM[i])` for `i < n` (40_transform R100; 10_state R43). -/
def State.points (s : State) (n : Nat) : List (F × F) :=
  ((loadElems s.mem .re n).map F.ofWord).zip ((loadElems s.mem .im n).map F.ofWord)

/-- `T = TAPS[31:0]` as an integer (42_fir_design R130). -/
def State.tapCount (s : State) : Nat :=
  s.taps.toNat

/-- `SRATE` read as binary64 (10_state R35). -/
def State.sampleRate (s : State) : F :=
  F.ofWord s.srate

/-- `F1` read as binary64 (10_state R36). -/
def State.cutoff1 (s : State) : F :=
  F.ofWord s.f1

/-- `F2` read as binary64 (10_state R37). -/
def State.cutoff2 (s : State) : F :=
  F.ofWord s.f2

/-- `fc1 = F1 / SRATE` (42_fir_design R132). -/
def State.fc1 (s : State) : F :=
  fdiv s.cutoff1 s.sampleRate

/-- `fc2 = F2 / SRATE` (42_fir_design R132). -/
def State.fc2 (s : State) : F :=
  fdiv s.cutoff2 s.sampleRate

/-- The shape parameter: `KBETA`, or `KAISER_BETA_DEFAULT` when `KBV = 0` (42_fir_design R147; log 7). -/
def State.beta (s : State) (kbv : Bool) : F :=
  F.ofWord (if kbv then s.kbeta else Config.kaiserBetaDefault)

/-- `SRATE` is finite and greater than `+0.0` (42_fir_design R131, check 1). -/
def State.goodRate (s : State) : Bool :=
  isfinite s.sampleRate && flt (.fin false 0) s.sampleRate

/-- The parameter checks in their order; `needsF2` for the two-cutoff shapes (42_fir_design R131;
60_exceptions R176). -/
def State.designCheck (s : State) (needsF2 f2v : Bool) : Option ErrCode :=
  if !s.goodRate then some .invalidParam
  else if needsF2 && !f2v then some .missingParam
  else if Config.tapsMax < s.tapCount then some .invalidParam
  else none

end Sys2Proof.Machine
end

