-- ==== Sys2Proof/Machine/Fft.lean ====
section
/-! DEFINITION. The transform commands (40_transform R106, R107). -/

namespace Sys2Proof.Machine

/-- What the two commands share: the length check before anything is touched, the algorithm on the active
range, the write of every point of it, completion (40_transform R100, R110). -/
def runTransform (algorithm : Nat → List (F × F) → List (F × F)) (s : State) : State :=
  let N := s.pointCount
  if badLength N then s.raiseError .invalidInput
  else
    let y := algorithm N (s.points N)
    ((s.storeValues .re (y.map Prod.fst)).storeValues .im (y.map Prod.snd)).complete false

/-- `FFT` (40_transform R106). -/
def execFft (s : State) : Host.Outcome State Fault Refusal :=
  .next (runTransform (forwardTransform binary64) s)

/-- `IFFT` (40_transform R107). -/
def execIfft (s : State) : Host.Outcome State Fault Refusal :=
  .next (runTransform (inverseTransform binary64) s)

end Sys2Proof.Machine
end

