-- ==== Sys2Proof/Machine/Window.lean ====
section
/-! DEFINITION. The Bessel series and the five windows (42_fir_design R141 to R146) over any primitives. -/

namespace Sys2Proof.Machine

variable {α : Type}

/-- The loop of the series from the `k`-th term on, at most `fuel` further terms; `hx` is `x / 2`. The exit
test follows the addition (42_fir_design R146). -/
def besselLoop (A : Arith α) (hx : α) : (fuel : Nat) → (k : Nat) → (term sum : α) → α
  | 0, _, _, sum => sum
  | fuel + 1, k, term, sum =>
    let q := A.fdiv hx (A.tofloat k)
    let term' := A.fmul term (A.fmul q q)
    let sum' := A.fadd sum term'
    if A.flt term' (A.fmul (A.const .eps) sum') then sum' else besselLoop A hx fuel (k + 1) term' sum'

/-- `I0(x)` (42_fir_design R146). -/
def besselI0 (A : Arith α) (x : α) : α :=
  besselLoop A (A.fdiv x (A.const .two)) Config.i0MaxTerms 1 (A.const .one) (A.const .one)

/-- `a(n)`, the angle `2πn / (T - 1)` (42_fir_design R141). -/
def windowAngle (A : Arith α) (n T : Nat) : α :=
  A.fdiv (A.fmul (A.const .twoPi) (A.tofloat n)) (A.tofloat (T - 1))

/-- `HANN` (42_fir_design R142). -/
def hannWindow (A : Arith α) (n T : Nat) : α :=
  A.fsub (A.const .half) (A.fmul (A.const .half) (A.cos (windowAngle A n T)))

/-- `HAMMING` (42_fir_design R143). -/
def hammingWindow (A : Arith α) (n T : Nat) : α :=
  A.fsub (A.const .c054) (A.fmul (A.const .c046) (A.cos (windowAngle A n T)))

/-- `BLACKMAN` (42_fir_design R144). -/
def blackmanWindow (A : Arith α) (n T : Nat) : α :=
  let a := windowAngle A n T
  A.fadd (A.fsub (A.const .c042) (A.fmul (A.const .half) (A.cos a)))
    (A.fmul (A.const .c008) (A.cos (A.fmul (A.const .two) a)))

/-- `KAISER`, with `den = I0(beta)` (42_fir_design R145). -/
def kaiserWindow (A : Arith α) (beta den : α) (n T : Nat) : α :=
  let r := A.fsub (A.fdiv (A.fmul (A.const .two) (A.tofloat n)) (A.tofloat (T - 1))) (A.const .one)
  let arg := A.fmul beta (A.fsqrt (A.fsub (A.const .one) (A.fmul r r)))
  A.fdiv (besselI0 A arg) den

/-- `w(win, n, T)` (42_fir_design R141): 1.0 when `T = 1`, whatever the window. -/
def windowValue (A : Arith α) (win : Window) (beta den : α) (n T : Nat) : α :=
  if T = 1 then A.const .one
  else match win with
    | .rect => A.const .one
    | .hann => hannWindow A n T
    | .hamming => hammingWindow A n T
    | .blackman => blackmanWindow A n T
    | .kaiser => kaiserWindow A beta den n T

end Sys2Proof.Machine
end

