-- ==== Sys2Proof/Machine/Prototype.lean ====
section
/-! DEFINITION. The windowed-sinc design and its normalisation pass (42_fir_design R132 to R140, R148 to
R151) over any primitives. -/

namespace Sys2Proof.Machine

variable {α : Type}

/-- `m`, the centre index `(T - 1) / 2` (42_fir_design R132). -/
def centre (A : Arith α) (T : Nat) : α :=
  A.fdiv (A.tofloat (T - 1)) (A.const .two)

/-- `sinc(x)`, 1.0 exactly when `x` compares equal to zero (42_fir_design R133). -/
def sinc (A : Arith α) (x : α) : α :=
  if A.feq x (A.const .zero) then A.const .one
  else
    let px := A.fmul (A.const .pi) x
    A.fdiv (A.sin px) px

/-- `lp(fc, n)`, the lowpass prototype (42_fir_design R134). -/
def lowpass (A : Arith α) (m fc : α) (n : Nat) : α :=
  let c := A.fmul (A.const .two) fc
  let x := A.fmul c (A.fsub (A.tofloat n) m)
  A.fmul c (sinc A x)

/-- `delta(n)`, the centred unit impulse; absent when no `n` equals `m` (42_fir_design R135). -/
def delta (A : Arith α) (m : α) (n : Nat) : α :=
  if A.feq (A.tofloat n) m then A.const .one else A.const .zero

/-- `ideal(n)` of `FIRLP` (42_fir_design R136). -/
def idealLowpass (A : Arith α) (m fc1 : α) (n : Nat) : α :=
  lowpass A m fc1 n

/-- `ideal(n)` of `FIRHP` (42_fir_design R137). -/
def idealHighpass (A : Arith α) (m fc1 : α) (n : Nat) : α :=
  A.fsub (delta A m n) (lowpass A m fc1 n)

/-- `ideal(n)` of `FIRBP` (42_fir_design R138). -/
def idealBandpass (A : Arith α) (m fc1 fc2 : α) (n : Nat) : α :=
  A.fsub (lowpass A m fc2 n) (lowpass A m fc1 n)

/-- `ideal(n)` of `FIRBS` (42_fir_design R139). -/
def idealBandstop (A : Arith α) (m fc1 fc2 : α) (n : Nat) : α :=
  A.fsub (delta A m n) (A.fsub (lowpass A m fc2 n) (lowpass A m fc1 n))

/-- The second phase: the `T` windowed taps in index order (42_fir_design R140, R148). `beta` is looked at
by the Kaiser window only. -/
def windowedTaps (A : Arith α) (win : Window) (beta : α) (T : Nat) (ideal : Nat → α) : List α :=
  let den := besselI0 A beta
  (List.range T).map fun n => A.fmul (ideal n) (windowValue A win beta den n T)

/-- The sums `(sr, si)` over the taps from index `n` on (42_fir_design R149). -/
def responseSums (A : Arith α) (wref : α) : (n : Nat) → List α → α × α → α × α
  | _, [], acc => acc
  | n, t :: ts, (sr, si) =>
    let ph := A.fmul wref (A.tofloat n)
    responseSums A wref (n + 1) ts
      (A.fadd sr (A.fmul t (A.cos ph)), A.fsub si (A.fmul t (A.sin ph)))

/-- `g`, the magnitude of the taps' response at the reference frequency (42_fir_design R149). -/
def referenceGain (A : Arith α) (fref srate : α) (taps : List α) : α :=
  let wref := A.fdiv (A.fmul (A.const .twoPi) fref) srate
  cabs A (responseSums A wref 0 taps (A.const .zero, A.const .zero))

/-- The normalisation pass: the taps over `g`, or `none` when `g > EPS` is false and the pass is skipped
(42_fir_design R149, R151). -/
def normalise (A : Arith α) (fref srate : α) (taps : List α) : Option (List α) :=
  let g := referenceGain A fref srate taps
  if A.flt (A.const .eps) g then some (taps.map fun t => A.fdiv t g) else none

end Sys2Proof.Machine
end

