-- ==== Sys2Proof/Machine/Fir.lean ====
section
/-! DEFINITION. The design commands (42_fir_design R136 to R140). -/

namespace Sys2Proof.Machine

/-- `0 Hz`, the reference frequency of `FIRLP` and `FIRBS` (42_fir_design R150). -/
def zeroHz : F :=
  binary64.const .zero

/-- Nyquist, the reference frequency of `FIRHP` (42_fir_design R150). -/
def State.nyquist (s : State) : F :=
  fdiv s.sampleRate (binary64.const .two)

/-- The band centre, the reference frequency of `FIRBP` (42_fir_design R150). -/
def State.bandCentre (s : State) : F :=
  fdiv (fadd s.cutoff1 s.cutoff2) (binary64.const .two)

/-- The third phase and completion: with `NORM = 1` the normalised taps, or the taps as they are and `WNS`
(42_fir_design R140, R149, R151). -/
def State.finishDesign (s : State) (norm : Bool) (fref : F) (taps : List F) : State :=
  if norm then
    match normalise binary64 fref s.sampleRate taps with
    | some scaled => (s.storeValues .tap scaled).complete false
    | none => (s.storeValues .tap taps).complete true
  else (s.storeValues .tap taps).complete false

/-- The common algorithm (42_fir_design R140): the checks before anything is written, the windowed taps of
`ideal`, which is given the centre index `m`, and the normalisation pass at `fref`. -/
def State.runDesign (s : State) (needsF2 : Bool) (win : Window) (norm f2v kbv : Bool)
    (ideal : F → Nat → F) (fref : F) : State :=
  match s.designCheck needsF2 f2v with
  | some e => s.raiseError e
  | none =>
    let T := s.tapCount
    s.finishDesign norm fref (windowedTaps binary64 win (s.beta kbv) T (ideal (centre binary64 T)))

/-- `FIRLP` (42_fir_design R136). -/
def execFirlp (win : Window) (norm f2v kbv : Bool) (s : State) : Host.Outcome State Fault Refusal :=
  .next (s.runDesign false win norm f2v kbv (fun m => idealLowpass binary64 m s.fc1) zeroHz)

/-- `FIRHP` (42_fir_design R137). -/
def execFirhp (win : Window) (norm f2v kbv : Bool) (s : State) : Host.Outcome State Fault Refusal :=
  .next (s.runDesign false win norm f2v kbv (fun m => idealHighpass binary64 m s.fc1) s.nyquist)

/-- `FIRBP` (42_fir_design R138). -/
def execFirbp (win : Window) (norm f2v kbv : Bool) (s : State) : Host.Outcome State Fault Refusal :=
  .next (s.runDesign true win norm f2v kbv (fun m => idealBandpass binary64 m s.fc1 s.fc2) s.bandCentre)

/-- `FIRBS` (42_fir_design R139). -/
def execFirbs (win : Window) (norm f2v kbv : Bool) (s : State) : Host.Outcome State Fault Refusal :=
  .next (s.runDesign true win norm f2v kbv (fun m => idealBandstop binary64 m s.fc1 s.fc2) zeroHz)

end Sys2Proof.Machine
end

