-- ==== Sys2Proof/Machine/Npot.lean ====
section
/-! DEFINITION. `NPOT` (41_npot R120). -/

namespace Sys2Proof.Machine

/-- `v | (v >> k)` (41_npot R120). -/
def smear (v : IntWord) (k : Nat) : IntWord :=
  v ||| (v >>> k)

/-- Bit-smearing of the decremented word, then the increment, all modulo 2^32 (41_npot R120). -/
def nextPowerOfTwo (n : IntWord) : IntWord :=
  smear (smear (smear (smear (smear (n - 1) 1) 2) 4) 8) 16 + 1

/-- `NPOT_OUT <-` the rounded `NPOT_IN`; never an error (41_npot R120, R124). -/
def execNpot (s : State) : Host.Outcome State Fault Refusal :=
  .next (State.complete { s with npotOut := nextPowerOfTwo s.npotIn } false)

end Sys2Proof.Machine
end

