-- ==== Sys2Proof/Machine/Dispatch.lean ====
section
/-! DEFINITION. One arm per command: the execute step's effect (60_exceptions R177). -/

namespace Sys2Proof.Machine

def exec (i : Instr) (s : State) : Host.Outcome State Fault Refusal :=
  match i with
  | .fft => Sys2Proof.Machine.execFft s
  | .ifft => Sys2Proof.Machine.execIfft s
  | .npot => Sys2Proof.Machine.execNpot s
  | .firlp win norm f2v kbv => Sys2Proof.Machine.execFirlp win norm f2v kbv s
  | .firhp win norm f2v kbv => Sys2Proof.Machine.execFirhp win norm f2v kbv s
  | .firbp win norm f2v kbv => Sys2Proof.Machine.execFirbp win norm f2v kbv s
  | .firbs win norm f2v kbv => Sys2Proof.Machine.execFirbs win norm f2v kbv s

end Sys2Proof.Machine
end

