-- ==== Sys2Proof/Machine/Engine.lean ====
section
/-! DEFINITION. The engine's one step, *execute* (60_exceptions R177): decode `LASTCMD` and run the command;
a word that decodes to none completes with `E_ILLEGAL_CMD` (R175). -/

namespace Sys2Proof.Machine

/-- The execute step. Its caller makes sure that `BUSY = 1`. -/
def engineStep (s : State) : Host.Outcome State Fault Refusal :=
  match decode s.lastcmd with
  | .command i => exec i s
  | .illegal _ => .next (s.raiseError .illegalCmd)

end Sys2Proof.Machine
end

