-- ==== Sys2Proof/Machine/Flags.lean ====
section
/-! DEFINITION. `STATUS` as a word, its write-one-to-clear bits, and the interrupt output (10_state R23 to
R29, R48). -/

namespace Sys2Proof.Machine

/-- The number of an error code (10_state R28). -/
def errorNumber : ErrCode → Nat
  | .noError => 0
  | .invalidInput => 1
  | .invalidParam => 2
  | .missingParam => 3
  | .illegalCmd => 4

/-- `STATUS` as it reads; bits 63:9 read 0 (10_state R23). -/
def State.statusWord (s : State) : Word :=
  BitVec.ofNat 64 (s.busy.toNat + s.done.toNat <<< 1 + s.err.toNat <<< 2 + s.ovr.toNat <<< 3
    + errorNumber s.errcode <<< 4 + s.wns.toNat <<< 8)

/-- A performed write to `STATUS`: bits 1 and 3 of the value clear `DONE` and `OVR` (10_state R23;
20_memory R67). -/
def State.clearStatus (s : State) (v : Word) : State :=
  { s with
    done := s.done && !v.getLsbD 1
    ovr := s.ovr && !v.getLsbD 3 }

/-- A dropped write: `OVR` and nothing else (10_state R27; 20_memory R67). -/
def State.dropWrite (s : State) : State :=
  { s with ovr := true }

/-- The interrupt output, `STATUS.DONE & IE[0]` at every moment (10_state R48; 60_exceptions R182). -/
def State.irq (s : State) : Bool :=
  s.done && s.ie

end Sys2Proof.Machine
end

