-- ==== Sys2Proof/Machine/Port.lean ====
section
/-! DEFINITION. The host port: the address map (20_memory R61), reads (R66) and writes (R67). -/

namespace Sys2Proof.Machine

/-- The fourteen registers (10_state R20). -/
inductive Reg where
  | id
  | cmd
  | status
  | ie
  | len
  | npotIn
  | npotOut
  | taps
  | srate
  | f1
  | f2
  | kbeta
  | lastcmd
  | limits
  deriving DecidableEq, Repr

/-- What an aligned mapped offset names (20_memory R61). -/
inductive Location where
  | reg (r : Reg)
  | elem (b : Buffer) (i : Nat)
  deriving DecidableEq, Repr

/-- The register at an offset (10_state R20). -/
def registerAt (o : Nat) : Option Reg :=
  match o with
  | 0x000 => some .id
  | 0x008 => some .cmd
  | 0x010 => some .status
  | 0x018 => some .ie
  | 0x020 => some .len
  | 0x028 => some .npotIn
  | 0x030 => some .npotOut
  | 0x038 => some .taps
  | 0x040 => some .srate
  | 0x048 => some .f1
  | 0x050 => some .f2
  | 0x058 => some .kbeta
  | 0x060 => some .lastcmd
  | 0x068 => some .limits
  | _ => none

/-- The offset of a register (10_state R20). -/
def registerOffset : Reg → Nat
  | .id => 0x000
  | .cmd => 0x008
  | .status => 0x010
  | .ie => 0x018
  | .len => 0x020
  | .npotIn => 0x028
  | .npotOut => 0x030
  | .taps => 0x038
  | .srate => 0x040
  | .f1 => 0x048
  | .f2 => 0x050
  | .kbeta => 0x058
  | .lastcmd => 0x060
  | .limits => 0x068

/-- The offset lies in a buffer's range. -/
def inBuffer (b : Buffer) (o : Nat) : Bool :=
  decide (bufferBase b ≤ o ∧ o < elemOffset b (bufferDepth b))

/-- The location at an aligned offset; `none` is an unmapped offset (20_memory R61, R62, R65). -/
def locate (o : Nat) : Option Location :=
  if inBuffer .re o then some (.elem .re ((o - bufferBase .re) / 8))
  else if inBuffer .im o then some (.elem .im ((o - bufferBase .im) / 8))
  else if inBuffer .tap o then some (.elem .tap ((o - bufferBase .tap) / 8))
  else (registerAt o).map .reg

/-- The location an access reaches; `none` is answered with a bus error: an access that is not 64 bits wide,
not aligned, or at an unmapped offset (20_memory R63, R65). -/
def reach (width : Nat) (o : Offset) : Option Location :=
  if width = 8 ∧ o.toNat % 8 = 0 then locate o.toNat else none

/-- The value a register reads as (20_memory R66): constants (10_state R21, R40), 0 for `CMD` (R22), reserved
bits 0 (R41). -/
def State.readReg (s : State) : Reg → Word
  | .id => 0x0000000152324654
  | .cmd => 0
  | .status => s.statusWord
  | .ie => BitVec.ofNat 64 s.ie.toNat
  | .len => s.len.zeroExtend 64
  | .npotIn => s.npotIn.zeroExtend 64
  | .npotOut => s.npotOut.zeroExtend 64
  | .taps => s.taps.zeroExtend 64
  | .srate => s.srate
  | .f1 => s.f1
  | .f2 => s.f2
  | .kbeta => s.kbeta
  | .lastcmd => s.lastcmd
  | .limits => 0x0003FFFF00100000

/-- A write to a register performed while idle (20_memory R67). -/
def State.writeReg (s : State) (r : Reg) (v : Word) : State :=
  match r with
  | .cmd => s.accept v
  | .status => s.clearStatus v
  | .ie => { s with ie := v.getLsbD 0 }
  | .len => { s with len := v.truncate 32 }
  | .npotIn => { s with npotIn := v.truncate 32 }
  | .taps => { s with taps := v.truncate 32 }
  | .srate => { s with srate := v }
  | .f1 => { s with f1 := v }
  | .f2 => { s with f2 := v }
  | .kbeta => { s with kbeta := v }
  | .id => s
  | .npotOut => s
  | .lastcmd => s
  | .limits => s

/-- The port answers; the answer stands until the next access (log 10). -/
def State.respond (s : State) (a : PortAnswer) : State :=
  { s with answer := some a }

/-- `MemRead` (20_memory R66). A buffer read while busy returns a free value, drawn afresh (log 4). -/
def State.portRead (s : State) (width : Nat) (o : Offset) : State :=
  match reach width o with
  | none => s.respond .busError
  | some (.reg r) => s.respond (.value (s.readReg r))
  | some (.elem b i) =>
    if s.busy then State.respond { s with draws := s.draws + 1 } (.value (Config.freeWord s.draws))
    else s.respond (.value (readElem s.mem b i))

/-- A write to a location performed while idle (20_memory R67). -/
def State.writeLocation (s : State) (l : Location) (v : Word) : State :=
  match l with
  | .reg r => s.writeReg r v
  | .elem b i => { s with mem := writeElem s.mem b i v }

/-- `MemWrite` (20_memory R67): the width, alignment and mapping test comes before the busy test
(60_exceptions R180). -/
def State.portWrite (s : State) (width : Nat) (o : Offset) (v : Word) : State :=
  match reach width o with
  | none => s.respond .busError
  | some l => if s.busy then s.dropWrite.respond .ok else (s.writeLocation l v).respond .ok

/-- The window offset of a byte address of the platform's; `none` when the address is not in the window and so
not addressed to the engine at all (20_memory R61, R65; log 8). -/
def windowOffset (address : Nat) : Option Offset :=
  if Config.base ≤ address ∧ address < Config.base + Config.windowBytes then
    some (BitVec.ofNat 25 (address - Config.base))
  else none

end Sys2Proof.Machine
end

