-- ==== Sys2Proof/Machine/Reset.lean ====
section
/-! DEFINITION. The reset input (70_reset_and_hazards R190 to R192) and the host's step as a whole
(00_scope R14). -/

namespace Sys2Proof.Machine

/-- The elements a command may touch (00_scope, glossary "Active range"; 20_memory R72). -/
inductive ActiveRange where
  | nothing
  /-- `RE[0 .. n-1]` and `IM[0 .. n-1]` -/
  | points (n : Nat)
  /-- `TAP[0 .. n-1]` -/
  | taps (n : Nat)
  deriving DecidableEq, Repr

/-- The active range of a transform: none when the length is refused (70_reset_and_hazards R192). -/
def State.transformRange (s : State) : ActiveRange :=
  if badLength s.pointCount then .nothing else .points s.pointCount

/-- The active range of a design: none when a check fails (70_reset_and_hazards R192). -/
def State.designRange (s : State) (needsF2 f2v : Bool) : ActiveRange :=
  match s.designCheck needsF2 f2v with
  | some _ => .nothing
  | none => .taps s.tapCount

/-- The active range of the latched command (70_reset_and_hazards R192). -/
def State.activeRange (s : State) : ActiveRange :=
  match decode s.lastcmd with
  | .command .fft => s.transformRange
  | .command .ifft => s.transformRange
  | .command .npot => .nothing
  | .command (.firlp _ _ f2v _) => s.designRange false f2v
  | .command (.firhp _ _ f2v _) => s.designRange false f2v
  | .command (.firbp _ _ f2v _) => s.designRange true f2v
  | .command (.firbs _ _ f2v _) => s.designRange true f2v
  | .illegal _ => .nothing

/-- The command running, if any, is abandoned: its active range becomes unspecified
(70_reset_and_hazards R192; log 5). -/
def State.abandon (s : State) : State :=
  if s.busy then
    match s.activeRange with
    | .nothing => s
    | .points n => (s.havoc .re n).havoc .im n
    | .taps n => s.havoc .tap n
  else s

/-- Reset: every register at its reset value, the buffers not written but for the active range of an
abandoned command (70_reset_and_hazards R191, R192). The model's own fields go on. -/
def State.assertReset (s : State) : State :=
  { State.reset with
    mem := s.abandon.mem, draws := s.abandon.draws, script := s.script, answer := s.answer
    everFailed := s.everFailed }

/-- The host's step (00_scope R14). -/
def State.hostStep (s : State) : HostAction → State
  | .read width o => s.portRead width o
  | .write width o v => s.portWrite width o v
  | .reset => s.assertReset

/-- The read that a platform's access at a byte address is to the engine, if it is one (log 8). -/
def readAt (width address : Nat) : Option HostAction :=
  (windowOffset address).map fun o => .read width o

/-- The write that a platform's access at a byte address is to the engine, if it is one (log 8). -/
def writeAt (width address : Nat) (v : Word) : Option HostAction :=
  (windowOffset address).map fun o => .write width o v

end Sys2Proof.Machine
end

