-- ==== Sys2Proof/Machine/Step.lean ====
section
/-! DEFINITION. One step of the machine: the engine's when it is busy and the schedule lets it go first, else
the host's next action (00_scope R14; 10_state R50; log 9). -/

namespace Sys2Proof.Machine

/-- The schedule lets a busy engine execute now: the next host action waits for it, or there is none
(70_reset_and_hazards R201; log 9). -/
def State.engineGoesFirst (s : State) : Bool :=
  match s.script with
  | [] => true
  | t :: _ => t.engineFirst

/-- One step. With nothing to do, an idle engine and no host action, nothing changes (60_exceptions R186;
log 12). -/
def step (s : State) : Host.Outcome State Fault Refusal :=
  if s.busy && s.engineGoesFirst then engineStep s
  else
    match s.script with
    | [] => .next s
    | t :: rest => .next (State.hostStep { s with script := rest } t.action)

/-- The next host action, if any, waits for the engine. -/
def letEngineGoFirst : List HostTurn → List HostTurn
  | [] => []
  | t :: rest => { t with engineFirst := true } :: rest

/-- The command word stored where the next step takes it from: accepted (30_encoding R93), and the schedule
lets the engine go first (log 13). -/
def State.withFetchWord (s : State) (nbits w : Nat) : State :=
  { s.accept (BitVec.ofNat 64 (w % 2 ^ nbits)) with script := letEngineGoFirst s.script }

end Sys2Proof.Machine
end

