-- ==== Sys2Proof/Exact.lean ====
section
/-! DEFINITION. The real-number reading of the primitives, for claims only (40_transform R108; 42_fir_design
R157; 00_scope R9): no step uses it (log 21). -/

namespace Sys2Proof

open Sys2Proof.Machine

/-- The real numbers that 00_scope R10 names. -/
noncomputable def exactConst : Const → ℝ
  | .pi => Real.pi
  | .twoPi => 2 * Real.pi
  | .eps => 1 / 1000000000000
  | .one => 1
  | .negOne => -1
  | .two => 2
  | .half => 1 / 2
  | .c054 => 54 / 100
  | .c046 => 46 / 100
  | .c042 => 42 / 100
  | .c008 => 8 / 100
  | .zero => 0

open Classical in
/-- Every primitive as the exact real operation and `COS`, `SIN` as the exact functions
(40_transform R108). -/
noncomputable def exactArith : Arith ℝ where
  fadd := fun x y => x + y
  fsub := fun x y => x - y
  fmul := fun x y => x * y
  fdiv := fun x y => x / y
  fsqrt := Real.sqrt
  sin := Real.sin
  cos := Real.cos
  tofloat := fun n => (n : ℝ)
  flt := fun x y => decide (x < y)
  feq := fun x y => decide (x = y)
  const := exactConst

/-- The complex number of a point (40_transform R108: `x[n] = RE[n] + j·IM[n]`). -/
noncomputable def complexOf (z : ℝ × ℝ) : ℂ :=
  ⟨z.1, z.2⟩

/-- `n` units are the magnitude of a binary64 value, but for the bound of the exponent: a significand of at
most 53 bits times a power of two (00_scope R8). -/
def Representable (n : Nat) : Prop :=
  ∃ k e : Nat, k < 2 ^ 53 ∧ n = k * 2 ^ e

/-- The real number a finite value stands for; 0 for the other values, of which nothing is claimed. -/
noncomputable def realOf : F → ℝ
  | .fin neg n => (if neg then -1 else 1) * (n : ℝ) / 2 ^ 1074
  | _ => 0

/-- One unit in the last place of a finite value, as a real number. -/
noncomputable def ulpOf : F → ℝ
  | .fin _ n => (spacing n : ℝ) / 2 ^ 1074
  | _ => 0

/-- `r` is the value of `F` nearest to `v`, a tie going to the even significand; a magnitude of at least
2^1024 - 2^970, half a unit beyond the largest finite value, gives an infinity (00_scope R8). -/
def CorrectlyRounded (v : ℝ) (r : F) : Prop :=
  match r with
  | .nan _ => False
  | .inf neg => if neg then v ≤ -(2 ^ 1024 - 2 ^ 970) else 2 ^ 1024 - 2 ^ 970 ≤ v
  | .fin neg n =>
    Representable n ∧ n < overflowUnits ∧
    ∀ (neg' : Bool) (m : Nat), Representable m →
      |realOf (.fin neg n) - v| ≤ |realOf (.fin neg' m) - v| ∧
      (|realOf (.fin neg n) - v| = |realOf (.fin neg' m) - v| → realOf (.fin neg' m) ≠ realOf (.fin neg n) →
        n / spacing n % 2 = 0)

/-- The property of `SIN` and `COS` that the spec leaves OPEN as `ULP_TRIG` (00_scope R9(d)): for every
finite operand the result is within `u` units in the last place of the real sine or cosine. A claim may
assume it; the model does not. -/
def TrigWithin (u : ℝ) : Prop :=
  ∀ w : Word, isfinite (F.ofWord w) = true →
    |realOf (sinF (F.ofWord w)) - Real.sin (realOf (F.ofWord w))| ≤ u * ulpOf (sinF (F.ofWord w)) ∧
    |realOf (cosF (F.ofWord w)) - Real.cos (realOf (F.ofWord w))| ≤ u * ulpOf (cosF (F.ofWord w))

end Sys2Proof
end

