-- ==== Sys2Proof/Safety.lean ====
section
/-! DEFINITION. What claims say of states: the invariant of the machine, what a completion looks like, and
what a command leaves alone. -/

namespace Sys2Proof.Machine

/-! ### The invariant -/

/-- While a command is in progress its result flags are clear; a code goes with `ERR` and never with a
warning (10_state R23, R26, R28, R29); an error on record is in the sticky bit too (60_exceptions R178). -/
def State.flagsConsistent (s : State) : Prop :=
  (s.busy = true → s.done = false ∧ s.err = false ∧ s.wns = false) ∧
  (s.err = true ↔ s.errcode ≠ .noError) ∧
  (s.wns = true → s.err = false) ∧
  (s.err = true → s.everFailed = true)

/-- The record left by the last command is one that the command in `LASTCMD` can leave (10_state R29, R39;
60_exceptions R171): each error code with the commands that raise it, the warning with a design command whose
`NORM` is 1. -/
def State.recordMatchesCommand (s : State) : Prop :=
  (s.errcode = .illegalCmd → ∃ why, decode s.lastcmd = .illegal why) ∧
  (s.errcode = .invalidInput → decode s.lastcmd = .command .fft ∨ decode s.lastcmd = .command .ifft) ∧
  (s.errcode = .invalidParam → ∃ win norm f2v kbv,
    decode s.lastcmd = .command (.firlp win norm f2v kbv) ∨
    decode s.lastcmd = .command (.firhp win norm f2v kbv) ∨
    decode s.lastcmd = .command (.firbp win norm f2v kbv) ∨
    decode s.lastcmd = .command (.firbs win norm f2v kbv)) ∧
  (s.errcode = .missingParam → ∃ win norm kbv,
    decode s.lastcmd = .command (.firbp win norm false kbv) ∨
    decode s.lastcmd = .command (.firbs win norm false kbv)) ∧
  (s.wns = true → ∃ win f2v kbv,
    decode s.lastcmd = .command (.firlp win true f2v kbv) ∨
    decode s.lastcmd = .command (.firhp win true f2v kbv) ∨
    decode s.lastcmd = .command (.firbp win true f2v kbv) ∨
    decode s.lastcmd = .command (.firbs win true f2v kbv))

/-- The invariant: memory in its canonical form, flags consistent, record and command in agreement. -/
def State.Inv (s : State) : Prop :=
  Memory.wf s.mem = true ∧ s.flagsConsistent ∧ s.recordMatchesCommand

/-! ### Completions and frames -/

/-- `t` is a state in which a command has completed without error, `WNS` being `warn` (60_exceptions
R177). -/
def State.completedOk (t : State) (warn : Bool) : Prop :=
  t.busy = false ∧ t.done = true ∧ t.err = false ∧ t.errcode = .noError ∧ t.wns = warn

/-- `t` is `s` but for the five result-scoped fields of `STATUS`, which say: completed in error with code `e`
(60_exceptions R177, R187), and for the model's sticky bit (R178). -/
def State.failedWith (s t : State) (e : ErrCode) : Prop :=
  t = { s with busy := false, done := true, err := true, errcode := e, wns := false
               everFailed := true }

/-- Every register except `STATUS` and `NPOT_OUT` is the same, and so are `OVR` and the host's side of the
model, but for the sticky bit: what the execute step of any command leaves alone (60_exceptions R177). -/
def State.sameRegisters (s t : State) : Prop :=
  t.ie = s.ie ∧ t.len = s.len ∧ t.npotIn = s.npotIn ∧ t.taps = s.taps ∧ t.srate = s.srate ∧
  t.f1 = s.f1 ∧ t.f2 = s.f2 ∧ t.kbeta = s.kbeta ∧ t.lastcmd = s.lastcmd ∧ t.ovr = s.ovr ∧
  t.script = s.script ∧ t.answer = s.answer

/-- Every byte of memory outside the first `n` elements of the buffers of `bs` reads as before. -/
def sameBytesOutside (m m' : Memory) (bs : List Buffer) (n : Nat) : Prop :=
  ∀ a, (∀ b ∈ bs, a < elemOffset b 0 ∨ elemOffset b n ≤ a) → readByte m' a = readByte m a

/-- `t` is what a design command whose checks pass makes of `s`: the taps `ideal(n) · w(n)`, divided by the
gain `g` at `fref` when `NORM = 1` and `g > EPS`; `WNS` when `NORM = 1` and not; nothing else written
(42_fir_design R140, R148, R149, R151). A NaN tap has an unspecified pattern `u` (log 2). -/
def State.designedTo (s t : State) (win : Window) (norm kbv : Bool) (ideal : Nat → F) (fref : F) : Prop :=
  let T := s.taps.toNat
  let raw := fun n => fmul (ideal n)
    (windowValue binary64 win (s.beta kbv) (besselI0 binary64 (s.beta kbv)) n T)
  let g := referenceGain binary64 fref s.sampleRate ((List.range T).map raw)
  s.sameRegisters t ∧ t.everFailed = s.everFailed ∧ t.npotOut = s.npotOut ∧
  sameBytesOutside s.mem t.mem [.tap] T ∧
  if norm = true ∧ flt (binary64.const .eps) g = true then
    t.completedOk false ∧ ∀ n, n < T → ∃ u, readElem t.mem .tap n = (fdiv (raw n) g).toWord u
  else
    t.completedOk norm ∧ ∀ n, n < T → ∃ u, readElem t.mem .tap n = (raw n).toWord u

/-- `t` is what a transform command with a legal length makes of `s`: point `i` of the active range is point
`i` of `y`, and nothing else is written (40_transform R100, R110). A NaN has an unspecified pattern (log 2). -/
def State.transformedTo (s t : State) (y : List (F × F)) : Prop :=
  s.sameRegisters t ∧ t.everFailed = s.everFailed ∧ t.npotOut = s.npotOut ∧
  sameBytesOutside s.mem t.mem [.re, .im] s.len.toNat ∧
  t.completedOk false ∧
  ∀ i, i < s.len.toNat → ∃ z u v, y[i]? = some z ∧
    readElem t.mem .re i = z.1.toWord u ∧ readElem t.mem .im i = z.2.toWord v

/-- The design commands, with what distinguishes them to the checks: whether the shape needs `F2`
(42_fir_design R131) and the command's `F2V`. -/
def designNeeds : Instr → Option (Bool × Bool)
  | .fft => none
  | .ifft => none
  | .npot => none
  | .firlp _ _ f2v _ => some (false, f2v)
  | .firhp _ _ f2v _ => some (false, f2v)
  | .firbp _ _ f2v _ => some (true, f2v)
  | .firbs _ _ f2v _ => some (true, f2v)

/-- No command has completed in error since power-up, whatever was accepted or reset since (60_exceptions
R178: `ERR` alone describes the last command only), and no dropped write is on record in `OVR` (R181; a host
may clear that record). -/
def State.clean (s : State) : Prop :=
  s.everFailed = false ∧ s.ovr = false

end Sys2Proof.Machine
end

