-- ==== Sys2Proof/Certificates/Slice0/Obligations.lean ====
section
/-! DEFINITION. The statements for the provers. Each docstring names the rules it formalises. -/

open Sys2Proof Sys2Proof.Machine

/-! ### Encoding -/

/-- R82 to R87, R90: decoding is the exact inverse of encoding, over all 2^64 words. -/
def Obligations.DecodeInvertsEncode : Prop :=
  ∀ (w : Word) (i : Instr), decode w = .command i ↔ w = encode i

/-- R90: exactly 163 words decode to a command. -/
def Obligations.ExactlyCommandWords163 : Prop :=
  ∃ l : List Word, l.Nodup ∧ l.length = 163 ∧ ∀ w, w ∈ l ↔ ∃ i, decode w = .command i

/-- R91: the illegal words are those with a reserved opcode, a reserved bit, a modifier the format does not
have, or a reserved window; each completes in error with `E_ILLEGAL_CMD` and changes nothing but `STATUS`. -/
def Obligations.IllegalWordsCompleteInError : Prop :=
  (∀ w : Word, (∃ why, decode w = .illegal why) ↔
    (w.extractLsb' 0 4 = 0 ∨ 4 ≤ (w.extractLsb' 0 4).toNat) ∨
    (w.getLsbD 7 = true ∨ w.getLsbD 11 = true ∨ w.extractLsb' 15 49 ≠ 0) ∨
    (w.getLsbD 4 = true ∧ (w.extractLsb' 0 4 = 2 ∨ w.extractLsb' 0 4 = 3)) ∨
    ((w.extractLsb' 0 4 = 1 ∨ w.extractLsb' 0 4 = 2) ∧
      (w.extractLsb' 5 2 ≠ 0 ∨ w.extractLsb' 8 3 ≠ 0 ∨ w.getLsbD 12 = true ∨ w.getLsbD 13 = true ∨
        w.getLsbD 14 = true)) ∨
    5 ≤ (w.extractLsb' 8 3).toNat) ∧
  ∀ (s : State) (why : Illegal), decode s.lastcmd = .illegal why →
    ∃ t, engineStep s = .next t ∧ s.failedWith t .illegalCmd

/-- R90: some words of the decoding table of the test vectors, written out from the encodings. -/
def Obligations.DecodeTableWords : Prop :=
  decode 0x1 = .command .fft ∧ decode 0x11 = .command .ifft ∧ decode 0x2 = .command .npot ∧
  decode 0x1203 = .command (.firlp .hamming true false false) ∧
  decode 0x0023 = .command (.firhp .rect false false false) ∧
  decode 0x2043 = .command (.firbp .rect false true false) ∧
  decode 0x7463 = .command (.firbs .kaiser true true true) ∧
  decode 0x0 = .illegal .reservedOpcode ∧ decode 0x31 = .illegal .strayModifier ∧
  decode 0x503 = .illegal .reservedWindow ∧ decode 0x83 = .illegal .reservedBit ∧
  decode 0x8003 = .illegal .reservedHighBits

/-! ### The step -/

/-- R177, R39: while busy, when the schedule lets the engine go first, a step runs the command that `LASTCMD`
decodes to; so does the step after `withFetchWord` (the schedule is the model's own, logs 9 and 13). -/
def Obligations.StepRunsDecodedCommand : Prop :=
  (∀ (s : State) (i : Instr), s.busy = true → s.engineGoesFirst = true → decode s.lastcmd = .command i →
    step s = exec i s) ∧
  ∀ (s : State) (w : Nat) (i : Instr), decode (BitVec.ofNat 64 w) = .command i → w < 2 ^ 64 →
    step (s.withFetchWord 64 w) = exec i (s.withFetchWord 64 w)

/-- R15: the machine never hangs and never traps: every step answers a next state. -/
def Obligations.EveryStepAnswersNext : Prop :=
  ∀ s : State, ∃ t, step s = .next t

/-- R177: whatever the word, the execute step ends with `BUSY = 0` and `DONE = 1`, `ERR` exactly with a
non-zero code, no warning with an error, every register it must keep as it was, and an error kept in the
model's sticky bit (R178, log 25). -/
def Obligations.ExecuteCompletes : Prop :=
  ∀ s : State, ∃ t, engineStep s = .next t ∧ t.busy = false ∧ t.done = true ∧
    (t.err = true ↔ t.errcode ≠ .noError) ∧ (t.wns = true → t.err = false) ∧ s.sameRegisters t ∧
    t.everFailed = (s.everFailed || t.err)

/-- R171 to R176: which code a command reports, in the order of the checks. -/
def Obligations.ErrorCodesHaveTheirCauses : Prop :=
  ∀ s t : State, engineStep s = .next t →
    (t.errcode = .illegalCmd ↔ ∃ why, decode s.lastcmd = .illegal why) ∧
    (t.errcode = .invalidInput ↔
      (decode s.lastcmd = .command .fft ∨ decode s.lastcmd = .command .ifft) ∧
        ¬ ∃ k, k ≤ 20 ∧ s.len.toNat = 2 ^ k) ∧
    (t.errcode = .missingParam ↔ ∃ i, decode s.lastcmd = .command i ∧ designNeeds i = some (true, false) ∧
      s.goodRate = true) ∧
    (t.errcode = .invalidParam ↔ ∃ i needsF2 f2v, decode s.lastcmd = .command i ∧
      designNeeds i = some (needsF2, f2v) ∧
      (s.goodRate = false ∨ ((needsF2 = true → f2v = true) ∧ 262143 < s.taps.toNat)))

/-- R187: a command that completes in error has changed nothing but `STATUS` (and the model's own sticky bit,
log 25). -/
def Obligations.ErrorsArePrecise : Prop :=
  ∀ s t : State, engineStep s = .next t → t.err = true → s.failedWith t t.errcode

/-- R42 to R44, R33, R72: who writes what. `RE` and `IM` are changed by the transforms only, `TAP` by the
design commands only and its last element by none, `NPOT_OUT` by `NPOT` only. -/
def Obligations.EngineWritesOnlyItsResults : Prop :=
  ∀ s t : State, engineStep s = .next t →
    (decode s.lastcmd ≠ .command .fft → decode s.lastcmd ≠ .command .ifft →
      ∀ i, i < 1048576 → readElem t.mem .re i = readElem s.mem .re i ∧
        readElem t.mem .im i = readElem s.mem .im i) ∧
    ((∀ i, decode s.lastcmd = .command i → designNeeds i = none) →
      ∀ n, n < 262144 → readElem t.mem .tap n = readElem s.mem .tap n) ∧
    readElem t.mem .tap 262143 = readElem s.mem .tap 262143 ∧
    (decode s.lastcmd ≠ .command .npot → t.npotOut = s.npotOut)

/-- R202, R17: every command ends: a busy machine is idle after at most one step more than the host actions
that are still to come (the script is the model's own field, log 9). -/
def Obligations.EveryCommandEnds : Prop :=
  ∀ s : State, s.busy = true →
    ∃ k, k ≤ s.script.length + 1 ∧ ∃ t : State, Host.Core.run Sys2Proof.core k s = .next t ∧ t.busy = false

/-- R14, R22, R24: only a performed write to `CMD` makes the engine busy, and the word written is then the
latched command (the script is the model's own field, log 9). -/
def Obligations.OnlyCmdWriteStartsCommand : Prop :=
  ∀ s t : State, step s = .next t → s.busy = false → t.busy = true →
    ∃ first v rest, s.script = ⟨first, .write 8 0x008 v⟩ :: rest ∧ t.lastcmd = v ∧ t.script = rest

/-! ### The invariant -/

/-- The state after power-up meets the invariant. -/
def Obligations.InvariantAtReset : Prop :=
  State.reset.Inv

/-- Every step keeps the invariant: canonical memory (the model's own form, log 14), consistent flags (R23, R26, R28, R29), and an error
record that the command in `LASTCMD` can leave (R29, R39, R171). -/
def Obligations.InvariantKeptByEveryStep : Prop :=
  ∀ s t : State, s.Inv → step s = .next t → t.Inv

/-! ### The transform commands -/

/-- R101, R172: the legal lengths are the 21 powers of two up to 2^20; with any other, both transforms
complete with `E_INVALID_INPUT` and nothing but `STATUS` changes; with a legal one they complete without
error. -/
def Obligations.TransformLengthCheck : Prop :=
  (∀ N : Nat, (N = 0 ∨ 1048576 < N ∨ N &&& (N - 1) ≠ 0) ↔ ¬ ∃ k, k ≤ 20 ∧ N = 2 ^ k) ∧
  (∀ s : State, (s.len.toNat = 0 ∨ 1048576 < s.len.toNat ∨ s.len.toNat &&& (s.len.toNat - 1) ≠ 0) →
    ∃ t, exec .fft s = .next t ∧ exec .ifft s = .next t ∧ s.failedWith t .invalidInput) ∧
  ∀ (s : State) (k : Nat), k ≤ 20 → s.len.toNat = 2 ^ k →
    ∃ t t', exec .fft s = .next t ∧ exec .ifft s = .next t' ∧ t.completedOk false ∧ t'.completedOk false

/-- R106, R100, R110: with a legal length `FFT` completes, every point of the active range is the forward
transform's, and nothing else changes. -/
def Obligations.FftTransformsActiveRange : Prop :=
  ∀ (s : State) (k : Nat), k ≤ 20 → s.len.toNat = 2 ^ k →
    ∃ t, exec .fft s = .next t ∧
      s.transformedTo t (transform binary64 (binary64.const .negOne) (2 ^ k) (s.points (2 ^ k)))

/-- R107, R105, R110: with a legal length `IFFT` completes, every point of the active range is the
transform's with the positive angle, each part divided by the length, and nothing else changes. -/
def Obligations.IfftTransformsActiveRange : Prop :=
  ∀ (s : State) (k : Nat), k ≤ 20 → s.len.toNat = 2 ^ k →
    ∃ t, exec .ifft s = .next t ∧
      s.transformedTo t ((transform binary64 (binary64.const .one) (2 ^ k) (s.points (2 ^ k))).map
        fun z => (fdiv z.1 (tofloat (2 ^ k)), fdiv z.2 (tofloat (2 ^ k))))

/-- R102: `bitrev` is the sum of the rule and an involution below `2^p`, and the permutation puts at place
`i` the element that was at place `bitrev(i)`; the example for `N = 8`. -/
def Obligations.BitReversalPermutation : Prop :=
  (∀ p i : Nat, bitrev p i = ((List.range p).map fun t => (i.testBit t).toNat * 2 ^ (p - 1 - t)).sum) ∧
  (∀ p i : Nat, i < 2 ^ p → bitrev p (bitrev p i) = i) ∧
  (∀ (β : Type) (p : Nat) (x : List β), x.length = 2 ^ p → ∀ i, i < 2 ^ p →
    (permute p (2 ^ p) x)[i]? = x[bitrev p i]?) ∧
  (∀ (β : Type) (x : List β), x.length = 1 → permute 0 1 x = x) ∧
  (∀ (β : Type) (x : List β), x.length = 2 → permute 1 2 x = x) ∧
  permute 3 8 [0, 1, 2, 3, 4, 5, 6, 7] = [0, 4, 2, 6, 1, 5, 3, 7]

/-- R114: lengths 1 and 2. One point: `FFT` changes nothing and `IFFT` divides by 1.0, which keeps every
value that is no NaN. Two points, finite inputs: the sums and differences, as values. -/
def Obligations.TransformOfOneAndTwoPoints : Prop :=
  (∀ z : F × F, forwardTransform binary64 1 [z] = [z]) ∧
  (∀ z : F × F, inverseTransform binary64 1 [z]
    = [(fdiv z.1 (binary64.const .one), fdiv z.2 (binary64.const .one))]) ∧
  (∀ w : Word, (∀ k, F.ofWord w ≠ .nan k) → fdiv (F.ofWord w) (binary64.const .one) = F.ofWord w) ∧
  (∀ a b c d : Word, isfinite (F.ofWord a) = true → isfinite (F.ofWord b) = true →
    isfinite (F.ofWord c) = true → isfinite (F.ofWord d) = true →
    ∃ r0 i0 r1 i1,
      forwardTransform binary64 2 [(F.ofWord a, F.ofWord b), (F.ofWord c, F.ofWord d)]
        = [(r0, i0), (r1, i1)] ∧
      feq r0 (fadd (F.ofWord a) (F.ofWord c)) = true ∧ feq r1 (fsub (F.ofWord a) (F.ofWord c)) = true ∧
      feq i0 (fadd (F.ofWord b) (F.ofWord d)) = true ∧ feq i1 (fsub (F.ofWord b) (F.ofWord d)) = true)

/-- R108: in exact arithmetic `FFT` is the discrete Fourier transform. -/
def Obligations.ForwardTransformIsDft : Prop :=
  ∀ (p : Nat) (x : List (ℝ × ℝ)), x.length = 2 ^ p → ∀ k : Nat, k < 2 ^ p →
    ((forwardTransform exactArith (2 ^ p) x)[k]?).map complexOf
      = some (((List.range (2 ^ p)).map fun n : Nat =>
          ((x[n]?).map complexOf).getD 0
            * Complex.exp (-(2 * Real.pi * Complex.I * (k : ℂ) * (n : ℂ) / (2 : ℂ) ^ p))).sum)

/-- R108: in exact arithmetic `IFFT` is the inverse discrete Fourier transform. -/
def Obligations.InverseTransformIsInverseDft : Prop :=
  ∀ (p : Nat) (x : List (ℝ × ℝ)), x.length = 2 ^ p → ∀ n : Nat, n < 2 ^ p →
    ((inverseTransform exactArith (2 ^ p) x)[n]?).map complexOf
      = some ((1 / (2 : ℂ) ^ p) * ((List.range (2 ^ p)).map fun k : Nat =>
          ((x[k]?).map complexOf).getD 0
            * Complex.exp (2 * Real.pi * Complex.I * (k : ℂ) * (n : ℂ) / (2 : ℂ) ^ p)).sum)

/-- R109: in exact arithmetic `IFFT` after `FFT`, and `FFT` after `IFFT`, restores every point. -/
def Obligations.RoundTripIsExact : Prop :=
  ∀ (p : Nat) (x : List (ℝ × ℝ)), x.length = 2 ^ p →
    inverseTransform exactArith (2 ^ p) (forwardTransform exactArith (2 ^ p) x) = x ∧
    forwardTransform exactArith (2 ^ p) (inverseTransform exactArith (2 ^ p) x) = x

/-- R112: in exact arithmetic a Hermitian spectrum has a real inverse transform. -/
def Obligations.HermitianSpectrumGivesRealResponse : Prop :=
  ∀ (p : Nat) (x : List (ℝ × ℝ)), x.length = 2 ^ p →
    (∀ (k : Nat) (u v : ℝ × ℝ), 1 ≤ k → k < 2 ^ p → x[k]? = some u → x[2 ^ p - k]? = some v → v = (u.1, -u.2)) →
    (∀ u : ℝ × ℝ, x[0]? = some u → u.2 = 0) →
    ∀ z : ℝ × ℝ, z ∈ inverseTransform exactArith (2 ^ p) x → z.2 = 0

/-! ### NPOT -/

/-- R120, R124: `NPOT` always completes without error, `NPOT_OUT` is the bit-smeared `NPOT_IN`, and nothing
else changes. -/
def Obligations.NpotSmearsItsOperand : Prop :=
  decode 0x0000000000000002 = .command .npot ∧
  ∀ s : State, ∃ t, exec .npot s = .next t ∧ t.completedOk false ∧ s.sameRegisters t ∧ t.mem = s.mem ∧
    t.draws = s.draws ∧ t.everFailed = s.everFailed ∧ (s.npotIn = 1000 → t.npotOut = 1024) ∧
    t.npotOut =
      (let v0 := s.npotIn - 1
       let v1 := v0 ||| (v0 >>> 1)
       let v2 := v1 ||| (v1 >>> 2)
       let v3 := v2 ||| (v2 >>> 4)
       let v4 := v3 ||| (v3 >>> 8)
       let v5 := v4 ||| (v4 >>> 16)
       v5 + 1)

/-- From 1 to 2^31, as R122 derives from R120, the result is the least power of two that is not below the operand. -/
def Obligations.NpotRoundsUp : Prop :=
  ∀ s : State, 1 ≤ s.npotIn.toNat → s.npotIn.toNat ≤ 2 ^ 31 →
    ∃ t, exec .npot s = .next t ∧ (∃ e, t.npotOut.toNat = 2 ^ e) ∧ s.npotIn.toNat ≤ t.npotOut.toNat ∧
      (∀ e, s.npotIn.toNat ≤ 2 ^ e → t.npotOut.toNat ≤ 2 ^ e) ∧
      (∀ e, s.npotIn.toNat = 2 ^ e → t.npotOut = s.npotIn)

/-- The corner cases of the 32-bit width. R123 marks them as derived from R120, and 93_implementation_defined
U7 asks a claim that depends on the results for 0 and above 2^31 to say so: this one does (log 22). -/
def Obligations.NpotCornerCases : Prop :=
  ∀ s : State, ∃ t, exec .npot s = .next t ∧
    (s.npotIn = 0 → t.npotOut = 0) ∧ (s.npotIn = 1 → t.npotOut = 1) ∧ (s.npotIn = 2 → t.npotOut = 2) ∧
    (s.npotIn = 3 → t.npotOut = 4) ∧ (s.npotIn = 0x80000000 → t.npotOut = 0x80000000) ∧
    (0x80000000 < s.npotIn.toNat → t.npotOut = 0)

/-! ### The design commands -/

/-- R136: `FIRLP` with a good sample rate and a legal tap count completes with the lowpass design. -/
def Obligations.FirlpDesignsLowpass : Prop :=
  ∀ (s : State) (win : Window) (norm f2v kbv : Bool), s.goodRate = true → s.taps.toNat ≤ 262143 →
    ∃ t, exec (.firlp win norm f2v kbv) s = .next t ∧
      s.designedTo t win norm kbv
        (fun n => lowpass binary64 (centre binary64 s.taps.toNat) (fdiv s.cutoff1 s.sampleRate) n)
        (.fin false 0)

/-- R137: `FIRHP` with a good sample rate and a legal tap count completes with the highpass design. -/
def Obligations.FirhpDesignsHighpass : Prop :=
  ∀ (s : State) (win : Window) (norm f2v kbv : Bool), s.goodRate = true → s.taps.toNat ≤ 262143 →
    ∃ t, exec (.firhp win norm f2v kbv) s = .next t ∧
      s.designedTo t win norm kbv
        (fun n => fsub (delta binary64 (centre binary64 s.taps.toNat) n)
          (lowpass binary64 (centre binary64 s.taps.toNat) (fdiv s.cutoff1 s.sampleRate) n))
        (fdiv s.sampleRate (F.ofWord 0x4000000000000000))

/-- R138: `FIRBP` with `F2V = 1`, a good sample rate and a legal tap count completes with the bandpass
design. -/
def Obligations.FirbpDesignsBandpass : Prop :=
  ∀ (s : State) (win : Window) (norm kbv : Bool), s.goodRate = true → s.taps.toNat ≤ 262143 →
    ∃ t, exec (.firbp win norm true kbv) s = .next t ∧
      s.designedTo t win norm kbv
        (fun n => fsub
          (lowpass binary64 (centre binary64 s.taps.toNat) (fdiv s.cutoff2 s.sampleRate) n)
          (lowpass binary64 (centre binary64 s.taps.toNat) (fdiv s.cutoff1 s.sampleRate) n))
        (fdiv (fadd s.cutoff1 s.cutoff2) (F.ofWord 0x4000000000000000))

/-- R139: `FIRBS` with `F2V = 1`, a good sample rate and a legal tap count completes with the bandstop
design. -/
def Obligations.FirbsDesignsBandstop : Prop :=
  ∀ (s : State) (win : Window) (norm kbv : Bool), s.goodRate = true → s.taps.toNat ≤ 262143 →
    ∃ t, exec (.firbs win norm true kbv) s = .next t ∧
      s.designedTo t win norm kbv
        (fun n => fsub (delta binary64 (centre binary64 s.taps.toNat) n)
          (fsub (lowpass binary64 (centre binary64 s.taps.toNat) (fdiv s.cutoff2 s.sampleRate) n)
            (lowpass binary64 (centre binary64 s.taps.toNat) (fdiv s.cutoff1 s.sampleRate) n)))
        (.fin false 0)

/-- R131: the three checks in their order, each failing before anything is written; check 1 passes exactly
for the patterns of the positive finite values, and when all three pass the command completes without error,
whatever `F1`, `F2` and `KBETA` hold. -/
def Obligations.DesignChecksInOrder : Prop :=
  (∀ s : State, s.goodRate = true ↔
    s.srate.getLsbD 63 = false ∧ s.srate.extractLsb' 52 11 ≠ 2047 ∧ s.srate ≠ 0) ∧
  ∀ (s : State) (i : Instr) (needsF2 f2v : Bool), designNeeds i = some (needsF2, f2v) →
    (s.goodRate = false → ∃ t, exec i s = .next t ∧ s.failedWith t .invalidParam) ∧
    (s.goodRate = true → needsF2 = true → f2v = false →
      ∃ t, exec i s = .next t ∧ s.failedWith t .missingParam) ∧
    (s.goodRate = true → (needsF2 = true → f2v = true) → 262143 < s.taps.toNat →
      ∃ t, exec i s = .next t ∧ s.failedWith t .invalidParam) ∧
    (s.goodRate = true → (needsF2 = true → f2v = true) → s.taps.toNat ≤ 262143 →
      ∃ t, exec i s = .next t ∧ t.completedOk t.wns)

/-- R152: with `TAPS = 0` and passing checks a design command writes no tap, and sets `WNS` exactly when
`NORM = 1`. -/
def Obligations.ZeroTapsWriteNothing : Prop :=
  ∀ (s : State) (win : Window) (norm f2v kbv : Bool), s.goodRate = true → s.taps = 0 →
    ∃ t : State, t.completedOk norm ∧ s.sameRegisters t ∧ t.npotOut = s.npotOut ∧ t.mem = s.mem ∧
      t.everFailed = s.everFailed ∧
      exec (.firlp win norm f2v kbv) s = .next t ∧
      exec (.firhp win norm f2v kbv) s = .next t ∧ exec (.firbp win norm true kbv) s = .next t ∧
      exec (.firbs win norm true kbv) s = .next t

/-- R135, R153: the unit impulse stands at the centre of an odd number of taps and nowhere for an even one. -/
def Obligations.ImpulseOnlyAtCentre : Prop :=
  ∀ T n : Nat, 1 ≤ T → T ≤ 262143 → n < T →
    delta binary64 (centre binary64 T) n
      = if 2 * n + 1 = T then F.ofWord 0x3FF0000000000000 else .fin false 0

/-- R154: exchanging the two cutoffs negates the bandpass response, as a value; equal cutoffs give `+0.0`
wherever the prototype is finite. The signs of infinities and zeros are those of IEEE 754 (log 17). -/
def Obligations.ExchangedCutoffsNegateBandpass : Prop :=
  (∀ (m fc1 fc2 : F) (n : Nat), (∀ k, idealBandpass binary64 m fc1 fc2 n ≠ .nan k) →
    feq (idealBandpass binary64 m fc2 fc1 n) (idealBandpass binary64 m fc1 fc2 n).negate = true) ∧
  ∀ (m fc : F) (n : Nat), isfinite (lowpass binary64 m fc n) = true →
    idealBandpass binary64 m fc fc n = .fin false 0

/-- R146: `I0` does not depend on the sign of its operand. -/
def Obligations.BesselIsEven : Prop :=
  ∀ x : F, besselI0 binary64 x.negate = besselI0 binary64 x

/-- R157: in exact arithmetic every design is symmetric, whatever the window, before and after the
normalisation pass of `NORM = 1` at any reference frequency. -/
def Obligations.DesignsAreSymmetric : Prop :=
  ∀ (win : Window) (beta fc1 fc2 : ℝ) (T n : Nat), n < T →
    (∀ ideal : Nat → ℝ,
      (ideal = idealLowpass exactArith (centre exactArith T) fc1 ∨
        ideal = idealHighpass exactArith (centre exactArith T) fc1 ∨
        ideal = idealBandpass exactArith (centre exactArith T) fc1 fc2 ∨
        ideal = idealBandstop exactArith (centre exactArith T) fc1 fc2) →
      (windowedTaps exactArith win beta T ideal)[n]?
          = (windowedTaps exactArith win beta T ideal)[T - 1 - n]? ∧
      ∀ (fref srate : ℝ) (scaled : List ℝ),
        normalise exactArith fref srate (windowedTaps exactArith win beta T ideal) = some scaled →
          scaled.length = T ∧ scaled[n]? = scaled[T - 1 - n]?)

/-- R88: `F2V` has no effect on `FIRLP` and `FIRHP`. -/
def Obligations.SecondCutoffBitIgnored : Prop :=
  ∀ (s : State) (win : Window) (norm kbv : Bool),
    exec (.firlp win norm true kbv) s = exec (.firlp win norm false kbv) s ∧
    exec (.firhp win norm true kbv) s = exec (.firhp win norm false kbv) s

/-- R16, R89: what a design command writes depends on the operands it names alone: on `F2` for the
two-cutoff shapes only, on `KBETA` for the Kaiser window with `KBV = 1` only. (`draws` is the place in the
model's stream of NaN patterns, log 2.) -/
def Obligations.DesignDependsOnItsOperands : Prop :=
  ∀ (s s' : State) (i : Instr) (win : Window) (norm f2v kbv : Bool) (t t' : State),
    s.taps = s'.taps → s.srate = s'.srate → s.f1 = s'.f1 → s.draws = s'.draws →
    (win = .kaiser → kbv = true → s.kbeta = s'.kbeta) →
    (i = .firlp win norm f2v kbv ∨ i = .firhp win norm f2v kbv ∨
      (s.f2 = s'.f2 ∧ (i = .firbp win norm f2v kbv ∨ i = .firbs win norm f2v kbv))) →
    exec i s = .next t → exec i s' = .next t' →
    t.err = t'.err ∧ t.errcode = t'.errcode ∧ t.wns = t'.wns ∧
    (t.err = false → ∀ n, n < s.taps.toNat → readElem t.mem .tap n = readElem t'.mem .tap n)

/-- R16, R89: what a transform writes depends on `LEN` and the points of the active range alone. -/
def Obligations.TransformDependsOnItsOperands : Prop :=
  ∀ (s s' : State) (i : Instr) (t t' : State), (i = .fft ∨ i = .ifft) →
    s.len = s'.len → s.draws = s'.draws →
    (∀ n, n < s.len.toNat → readElem s.mem .re n = readElem s'.mem .re n ∧
      readElem s.mem .im n = readElem s'.mem .im n) →
    exec i s = .next t → exec i s' = .next t' →
    t.err = t'.err ∧ t.errcode = t'.errcode ∧ t.wns = t'.wns ∧
    ∀ n, n < s.len.toNat → readElem t.mem .re n = readElem t'.mem .re n ∧
      readElem t.mem .im n = readElem t'.mem .im n

/-! ### Arithmetic -/

/-- R8: `fadd`, `fsub`, `fmul`, `fdiv` of finite values are the exact results correctly rounded. -/
def Obligations.ArithmeticCorrectlyRounded : Prop :=
  ∀ x y : Word, isfinite (F.ofWord x) = true → isfinite (F.ofWord y) = true →
    CorrectlyRounded (realOf (F.ofWord x) + realOf (F.ofWord y)) (fadd (F.ofWord x) (F.ofWord y)) ∧
    CorrectlyRounded (realOf (F.ofWord x) - realOf (F.ofWord y)) (fsub (F.ofWord x) (F.ofWord y)) ∧
    CorrectlyRounded (realOf (F.ofWord x) * realOf (F.ofWord y)) (fmul (F.ofWord x) (F.ofWord y)) ∧
    (realOf (F.ofWord y) ≠ 0 →
      CorrectlyRounded (realOf (F.ofWord x) / realOf (F.ofWord y)) (fdiv (F.ofWord x) (F.ofWord y)))

/-- R8: `fsqrt` of a non-negative finite value is the exact root correctly rounded. -/
def Obligations.SquareRootCorrectlyRounded : Prop :=
  ∀ x : Word, isfinite (F.ofWord x) = true → 0 ≤ realOf (F.ofWord x) →
    CorrectlyRounded (Real.sqrt (realOf (F.ofWord x))) (fsqrt (F.ofWord x))

/-- R10: each constant is the value nearest the real number named, and `TWO_PI` is `fmul(2.0, PI)`. -/
def Obligations.ConstantsAreNearest : Prop :=
  (∀ c : Const, c ≠ .twoPi → CorrectlyRounded (exactConst c) (binary64.const c)) ∧
  binary64.const .twoPi = fmul (binary64.const .two) (binary64.const .pi)

/-- R9(b), R9(c): `SIN` and `COS` of the zeros, and of every operand that is not finite. -/
def Obligations.SineAndCosineContract : Prop :=
  (∀ neg, cosF (.fin neg 0) = F.ofWord 0x3FF0000000000000 ∧ sinF (.fin neg 0) = .fin neg 0) ∧
  ∀ x : F, isfinite x = false → (∃ k, sinF x = .nan k) ∧ (∃ k, cosF x = .nan k)

/-! ### Acceptance, port, interrupt -/

/-- R93: acceptance of a command word. -/
def Obligations.AcceptanceLatchesTheWord : Prop :=
  ∀ (s : State) (v : Word), s.busy = false →
    s.hostStep (.write 8 0x008 v)
      = { s with lastcmd := v, busy := true, done := false, err := false, errcode := .noError, wns := false
                 answer := some .ok }

/-- R181, R27: a well-formed write while busy changes nothing but `OVR`, and the port answers OK. -/
def Obligations.BusyWriteIsDropped : Prop :=
  ∀ (s : State) (o : Offset) (v : Word) (l : Location), s.busy = true → reach 8 o = some l →
    s.hostStep (.write 8 o v) = { s with ovr := true, answer := some .ok }

/-- R70, R73, R181: no host write while busy disturbs the running command: the command leaves what it would
have left, but for `OVR` and the port's answer. -/
def Obligations.BusyWriteDoesNotDisturbCommand : Prop :=
  ∀ (s t : State) (width : Nat) (o : Offset) (v : Word), s.busy = true → engineStep s = .next t →
    ∃ t', engineStep (s.hostStep (.write width o v)) = .next t' ∧
      t' = { t with ovr := t'.ovr, answer := t'.answer } ∧ (t.ovr = true → t'.ovr = true)

/-- R63, R65, R180: exactly the accesses that are not aligned 64-bit accesses of a mapped offset are answered
with a bus error, busy or not, and change nothing; every other read is answered with a value and every other
write with OK. -/
def Obligations.BusErrorChangesNothing : Prop :=
  ∀ (s : State) (width : Nat) (o : Offset) (v : Word),
    (reach width o = none ↔ width ≠ 8 ∨ o.toNat % 8 ≠ 0 ∨ (0x70 ≤ o.toNat ∧ o.toNat < 0x00800000) ∨
      0x01A00000 ≤ o.toNat) ∧
    (reach width o = none →
      s.hostStep (.read width o) = { s with answer := some .busError } ∧
      s.hostStep (.write width o v) = { s with answer := some .busError }) ∧
    (∀ l, reach width o = some l →
      (∃ w, (s.hostStep (.read width o)).answer = some (.value w)) ∧
      (s.hostStep (.write width o v)).answer = some .ok)

/-- R20, R61, R62: the address map, the registers at the offsets the spec writes out. -/
def Obligations.AddressMap : Prop :=
  (reach 8 0x000 = some (.reg .id) ∧ reach 8 0x008 = some (.reg .cmd) ∧ reach 8 0x010 = some (.reg .status) ∧
    reach 8 0x018 = some (.reg .ie) ∧ reach 8 0x020 = some (.reg .len) ∧
    reach 8 0x028 = some (.reg .npotIn) ∧ reach 8 0x030 = some (.reg .npotOut) ∧
    reach 8 0x038 = some (.reg .taps) ∧ reach 8 0x040 = some (.reg .srate) ∧ reach 8 0x048 = some (.reg .f1) ∧
    reach 8 0x050 = some (.reg .f2) ∧ reach 8 0x058 = some (.reg .kbeta) ∧
    reach 8 0x060 = some (.reg .lastcmd) ∧ reach 8 0x068 = some (.reg .limits)) ∧
  (∀ r : Reg, reach 8 (BitVec.ofNat 25 (registerOffset r)) = some (.reg r)) ∧
  (∀ i, i < 1048576 → reach 8 (BitVec.ofNat 25 (0x00800000 + 8 * i)) = some (.elem .re i)) ∧
  (∀ i, i < 1048576 → reach 8 (BitVec.ofNat 25 (0x01000000 + 8 * i)) = some (.elem .im i)) ∧
  (∀ i, i < 262144 → reach 8 (BitVec.ofNat 25 (0x01800000 + 8 * i)) = some (.elem .tap i))

/-- R62, R66, R67: while idle, every pattern written to an element reads back unchanged, and no other byte of
memory and nothing else changes. -/
def Obligations.BufferWriteReadsBack : Prop :=
  ∀ (s : State) (o : Offset) (b : Buffer) (i : Nat) (v : Word), s.busy = false →
    reach 8 o = some (.elem b i) →
    ((s.hostStep (.write 8 o v)).hostStep (.read 8 o)).answer = some (.value v) ∧
    (s.hostStep (.write 8 o v)) = { s with mem := (s.hostStep (.write 8 o v)).mem, answer := some .ok } ∧
    ∀ a, (a < elemOffset b i ∨ elemOffset b i + 8 ≤ a) →
      readByte (s.hostStep (.write 8 o v)).mem a = readByte s.mem a

/-- R64: the byte at offset `a + k` of an element carries bits `8k+7 : 8k`. -/
def Obligations.ElementsAreLittleEndian : Prop :=
  ∀ (m : Memory) (b : Buffer) (i k : Nat) (w : Word), k < 8 →
    readByte (writeElem m b i w) (elemOffset b i + k) = w.extractLsb' (8 * k) 8

/-- R21, R22, R23, R27, R30 to R40, R67: what each of the fourteen registers reads after a write to it while
idle, `STATUS` by its write-one-to-clear bits 1 and 3; and, through the port at the offsets of R20, that a
write while idle stores the named register, nothing for a read-only one, and leaves every other register, the
buffers and the rest as they were. -/
def Obligations.RegisterWriteReadsBack : Prop :=
  ∀ (s : State) (v : Word),
    (s.writeReg .id v).readReg .id = 0x0000000152324654 ∧
    (s.writeReg .cmd v).readReg .cmd = 0 ∧
    (s.writeReg .ie v).readReg .ie = v &&& 1 ∧
    (s.writeReg .len v).readReg .len = v &&& 0xFFFFFFFF ∧
    (s.writeReg .npotIn v).readReg .npotIn = v &&& 0xFFFFFFFF ∧
    (s.writeReg .npotOut v).readReg .npotOut = s.npotOut.zeroExtend 64 ∧
    (s.writeReg .taps v).readReg .taps = v &&& 0xFFFFFFFF ∧
    (s.writeReg .srate v).readReg .srate = v ∧ (s.writeReg .f1 v).readReg .f1 = v ∧
    (s.writeReg .f2 v).readReg .f2 = v ∧ (s.writeReg .kbeta v).readReg .kbeta = v ∧
    (s.writeReg .lastcmd v).readReg .lastcmd = s.lastcmd ∧
    (s.writeReg .limits v).readReg .limits = 0x0003FFFF00100000 ∧
    ((s.writeReg .status v).readReg .status = s.statusWord &&& ~~~(v &&& 0xA)) ∧
    (s.busy = false →
      s.hostStep (.write 8 0x000 v) = { s with answer := some .ok } ∧
      s.hostStep (.write 8 0x008 v)
        = { s with lastcmd := v, busy := true, done := false, err := false, errcode := .noError, wns := false
                   answer := some .ok } ∧
      s.hostStep (.write 8 0x010 v)
        = { s with done := s.done && !v.getLsbD 1, ovr := s.ovr && !v.getLsbD 3, answer := some .ok } ∧
      s.hostStep (.write 8 0x018 v) = { s with ie := v.getLsbD 0, answer := some .ok } ∧
      s.hostStep (.write 8 0x020 v) = { s with len := v.extractLsb' 0 32, answer := some .ok } ∧
      s.hostStep (.write 8 0x028 v) = { s with npotIn := v.extractLsb' 0 32, answer := some .ok } ∧
      s.hostStep (.write 8 0x030 v) = { s with answer := some .ok } ∧
      s.hostStep (.write 8 0x038 v) = { s with taps := v.extractLsb' 0 32, answer := some .ok } ∧
      s.hostStep (.write 8 0x040 v) = { s with srate := v, answer := some .ok } ∧
      s.hostStep (.write 8 0x048 v) = { s with f1 := v, answer := some .ok } ∧
      s.hostStep (.write 8 0x050 v) = { s with f2 := v, answer := some .ok } ∧
      s.hostStep (.write 8 0x058 v) = { s with kbeta := v, answer := some .ok } ∧
      s.hostStep (.write 8 0x060 v) = { s with answer := some .ok } ∧
      s.hostStep (.write 8 0x068 v) = { s with answer := some .ok })

/-- R23, R28, R171: the bits of `STATUS`, with the number of each error code. -/
def Obligations.StatusWordLayout : Prop :=
  ∀ s : State,
    (s.statusWord.getLsbD 0 = s.busy ∧ s.statusWord.getLsbD 1 = s.done ∧ s.statusWord.getLsbD 2 = s.err ∧
      s.statusWord.getLsbD 3 = s.ovr ∧ s.statusWord.getLsbD 8 = s.wns) ∧
    (s.statusWord.extractLsb' 4 4).toNat = errorNumber s.errcode ∧ s.statusWord.extractLsb' 9 55 = 0 ∧
    (s.errcode = .noError → s.statusWord.extractLsb' 4 4 = 0) ∧
    (s.errcode = .invalidInput → s.statusWord.extractLsb' 4 4 = 1) ∧
    (s.errcode = .invalidParam → s.statusWord.extractLsb' 4 4 = 2) ∧
    (s.errcode = .missingParam → s.statusWord.extractLsb' 4 4 = 3) ∧
    (s.errcode = .illegalCmd → s.statusWord.extractLsb' 4 4 = 4)

/-- R66: a read changes no state of the engine, and while idle two reads of one offset answer the same; a read
at a register's offset of R20 answers the register's value, busy or not; a buffer read while idle answers the
element's pattern, and a buffer read while busy is a fresh free value (`draws` is the model's own field, logs 1 and 4). -/
def Obligations.ReadsHaveNoSideEffect : Prop :=
  ∀ (s : State) (width : Nat) (o : Offset),
    (s.busy = false ∨ (∀ b i, reach width o ≠ some (.elem b i)) →
      s.hostStep (.read width o) = { s with answer := (s.hostStep (.read width o)).answer } ∧
      ((s.hostStep (.read width o)).hostStep (.read width o)).answer
        = (s.hostStep (.read width o)).answer) ∧
    (∀ b i, s.busy = true → reach width o = some (.elem b i) →
      s.hostStep (.read width o)
        = { s with draws := s.draws + 1, answer := some (.value (Config.freeWord s.draws)) }) ∧
    (∀ b i, s.busy = false → reach width o = some (.elem b i) →
      s.hostStep (.read width o) = { s with answer := some (.value (readElem s.mem b i)) }) ∧
    (s.hostStep (.read 8 0x000)).answer = some (.value 0x0000000152324654) ∧
    (s.hostStep (.read 8 0x008)).answer = some (.value 0) ∧
    (s.hostStep (.read 8 0x010)).answer = some (.value s.statusWord) ∧
    (s.hostStep (.read 8 0x018)).answer = some (.value (if s.ie = true then 1 else 0)) ∧
    (s.hostStep (.read 8 0x020)).answer = some (.value (s.len.zeroExtend 64)) ∧
    (s.hostStep (.read 8 0x028)).answer = some (.value (s.npotIn.zeroExtend 64)) ∧
    (s.hostStep (.read 8 0x030)).answer = some (.value (s.npotOut.zeroExtend 64)) ∧
    (s.hostStep (.read 8 0x038)).answer = some (.value (s.taps.zeroExtend 64)) ∧
    (s.hostStep (.read 8 0x040)).answer = some (.value s.srate) ∧
    (s.hostStep (.read 8 0x048)).answer = some (.value s.f1) ∧
    (s.hostStep (.read 8 0x050)).answer = some (.value s.f2) ∧
    (s.hostStep (.read 8 0x058)).answer = some (.value s.kbeta) ∧
    (s.hostStep (.read 8 0x060)).answer = some (.value s.lastcmd) ∧
    (s.hostStep (.read 8 0x068)).answer = some (.value 0x0003FFFF00100000)

/-- R48, R183: `irq` is `DONE & IE[0]`; acceptance, an acknowledging write, disabling and reset lower it, and
completion raises it when enabled. -/
def Obligations.InterruptRisesAndFalls : Prop :=
  ∀ (s : State) (v : Word),
    (s.irq = true ↔ s.done = true ∧ s.ie = true) ∧
    (s.busy = false → (s.hostStep (.write 8 0x008 v)).irq = false) ∧
    (s.busy = false → v.getLsbD 1 = true → (s.hostStep (.write 8 0x010 v)).irq = false) ∧
    (s.busy = false → v.getLsbD 0 = false → (s.hostStep (.write 8 0x018 v)).irq = false) ∧
    (s.hostStep .reset).irq = false ∧
    (∀ o, (s.hostStep (.read 8 o)).irq = s.irq) ∧
    ∀ t, engineStep s = .next t → t.irq = s.ie

/-! ### Reset -/

/-- R191, R49: after reset every register has its reset value, the engine is idle and `irq` is 0; a reset
while idle leaves every byte of the buffers. The state after power-up has the same registers. -/
def Obligations.ResetValues : Prop :=
  ∀ s r : State, (r = s.hostStep .reset ∨ r = State.reset) →
    r.readReg .id = 0x0000000152324654 ∧ r.readReg .limits = 0x0003FFFF00100000 ∧
    (∀ x : Reg, x ≠ .id → x ≠ .limits → r.readReg x = 0) ∧ r.irq = false ∧ r.busy = false ∧
    (s.busy = false → (s.hostStep .reset).mem = s.mem)

/-- R192: a reset while busy changes no byte outside the active range of the abandoned command: the points of
a transform with a legal length, the taps of a design whose checks pass, nothing for any other word. -/
def Obligations.ResetWhileBusyKeepsOtherElements : Prop :=
  ∀ s : State, s.busy = true →
    ((decode s.lastcmd = .command .fft ∨ decode s.lastcmd = .command .ifft) →
      sameBytesOutside s.mem (s.hostStep .reset).mem [.re, .im] s.len.toNat ∧
      ((¬ ∃ k, k ≤ 20 ∧ s.len.toNat = 2 ^ k) → (s.hostStep .reset).mem = s.mem)) ∧
    (∀ i needsF2 f2v, decode s.lastcmd = .command i → designNeeds i = some (needsF2, f2v) →
      sameBytesOutside s.mem (s.hostStep .reset).mem [.tap] s.taps.toNat ∧
      (s.designCheck needsF2 f2v ≠ none → (s.hostStep .reset).mem = s.mem)) ∧
    ((decode s.lastcmd = .command .npot ∨ ∃ why, decode s.lastcmd = .illegal why) →
      (s.hostStep .reset).mem = s.mem)

/-- R61, R65: a platform access inside the window is the access at its offset from `BASE`; one outside is not
addressed to the engine. `BASE` is a multiple of 8. -/
def Obligations.WindowDecodesBase : Prop :=
  Config.base % 8 = 0 ∧
  (∀ o : Offset, windowOffset (Config.base + o.toNat) = some o) ∧
  ∀ a, (a < Config.base ∨ Config.base + 0x02000000 ≤ a) → windowOffset a = none

/-! ### The sticky error bit -/

/-- R178, R26: the sticky bit is set by the execute step exactly when it raises `ERR`, and nothing clears it,
no acceptance, no write and no reset; so a run of any length that ends with the bit clear has had no error at
any point. (The bit and the schedule are the model's own, logs 25 and 9.) -/
def Obligations.StickyErrorRecord : Prop :=
  (∀ s t : State, step s = .next t →
    t.everFailed = (s.everFailed || (s.busy && s.engineGoesFirst && t.err))) ∧
  ∀ (k : Nat) (s t : State), (s.err = true → s.everFailed = true) →
    Host.Core.run Sys2Proof.core k s = .next t → t.everFailed = false →
    ∀ j, j ≤ k → ∃ u : State, Host.Core.run Sys2Proof.core j s = .next u ∧ u.everFailed = false ∧ u.err = false

/-! ### The design formulas in real numbers -/

/-- R132, R133, R134: in exact arithmetic the centre is `(T - 1) / 2` and the prototype is the impulse response
of the ideal lowpass, delayed by `m` samples: `sin(2π·fc·(n-m)) / (π·(n-m))`, and `2·fc` at `n = m`. -/
def Obligations.LowpassInRealNumbers : Prop :=
  (∀ T : Nat, 1 ≤ T → centre exactArith T = ((T : ℝ) - 1) / 2) ∧
  ∀ (m fc : ℝ) (n : Nat),
    ((n : ℝ) = m → lowpass exactArith m fc n = 2 * fc) ∧
    ((n : ℝ) ≠ m → lowpass exactArith m fc n
      = Real.sin (2 * Real.pi * fc * ((n : ℝ) - m)) / (Real.pi * ((n : ℝ) - m)))

/-- R141 to R146: in exact arithmetic the five windows are their formulas, 1 for one tap, and `I0` is the
series `Σ ((x/2)^k / k!)²`, cut after the first term below `1e-12` of the sum with it, or after the 50th.
R149, R151: the gain of the normalisation pass is the magnitude of the taps' response at the reference
frequency, and the pass divides every tap by it exactly when it exceeds `1e-12`; in binary64 its two sums are
taken in index order. -/
def Obligations.WindowsInRealNumbers : Prop :=
  (∀ (win : Window) (beta den : ℝ) (n : Nat), windowValue exactArith win beta den n 1 = 1) ∧
  (∀ (beta den : ℝ) (T n : Nat), 2 ≤ T → n < T →
    windowValue exactArith .rect beta den n T = 1 ∧
    windowValue exactArith .hann beta den n T
      = 1 / 2 - 1 / 2 * Real.cos (2 * Real.pi * (n : ℝ) / ((T : ℝ) - 1)) ∧
    windowValue exactArith .hamming beta den n T
      = 54 / 100 - 46 / 100 * Real.cos (2 * Real.pi * (n : ℝ) / ((T : ℝ) - 1)) ∧
    windowValue exactArith .blackman beta den n T
      = 42 / 100 - 1 / 2 * Real.cos (2 * Real.pi * (n : ℝ) / ((T : ℝ) - 1))
        + 8 / 100 * Real.cos (4 * Real.pi * (n : ℝ) / ((T : ℝ) - 1)) ∧
    windowValue exactArith .kaiser beta den n T
      = besselI0 exactArith (beta * Real.sqrt (1 - (2 * (n : ℝ) / ((T : ℝ) - 1) - 1) ^ 2)) / den) ∧
  (∀ x : ℝ,
    let term := fun k : Nat => ((x / 2) ^ k / (Nat.factorial k : ℝ)) ^ 2
    let partialSum := fun K : Nat => ((List.range (K + 1)).map term).sum
    ∃ K, 1 ≤ K ∧ K ≤ 50 ∧ besselI0 exactArith x = partialSum K ∧
      (term K < 1 / 1000000000000 * partialSum K ∨ K = 50) ∧
      ∀ j, 1 ≤ j → j < K → ¬ term j < 1 / 1000000000000 * partialSum j) ∧
  (∀ (fref srate : ℝ) (taps : List ℝ),
    let g := ‖((List.range taps.length).map fun n : Nat =>
      ((taps.getD n 0 : ℝ) : ℂ)
        * Complex.exp (-(Complex.I * ((2 * Real.pi * fref / srate : ℝ) : ℂ) * (n : ℂ)))).sum‖
    referenceGain exactArith fref srate taps = g ∧
    (1 / 1000000000000 < g → normalise exactArith fref srate taps = some (taps.map fun t => t / g)) ∧
    (¬ 1 / 1000000000000 < g → normalise exactArith fref srate taps = none)) ∧
  ∀ (fref srate : F) (taps : List F),
    let wref := fdiv (fmul (F.ofWord 0x401921FB54442D18) fref) srate
    let sums := (List.range taps.length).foldl
      (fun (acc : F × F) n =>
        let ph := fmul wref (tofloat n)
        let tap := taps.getD n (.fin false 0)
        (fadd acc.1 (fmul tap (cosF ph)), fsub acc.2 (fmul tap (sinF ph))))
      (.fin false 0, .fin false 0)
    referenceGain binary64 fref srate taps = fsqrt (fadd (fmul sums.1 sums.1) (fmul sums.2 sums.2))
end

