-- ==== Sys2Proof/Laws/Design.lean ====
section
/-! SUPPORT. The laws of the design algorithm: the number of taps, each tap, and the two outcomes of the
normalisation pass. -/

namespace Sys2Proof.Machine

variable {α : Type}

@[simp] theorem windowedTaps_length (A : Arith α) (win : Window) (beta : α) (T : Nat) (ideal : Nat → α) :
    (windowedTaps A win beta T ideal).length = T := by
  simp [windowedTaps]

/-- Tap `n` is the ideal response times the window (42_fir_design R148). -/
theorem windowedTaps_getElem (A : Arith α) (win : Window) (beta : α) (T : Nat) (ideal : Nat → α) {n : Nat}
    (h : n < T) : (windowedTaps A win beta T ideal)[n]'(by simpa using h)
      = A.fmul (ideal n) (windowValue A win beta (besselI0 A beta) n T) := by
  simp [windowedTaps]

/-- The pass either divides every tap by the gain, which exceeds `EPS`, or is skipped, and then the gain does
not (42_fir_design R149, R151). -/
theorem normalise_cases (A : Arith α) (fref srate : α) (taps : List α) :
    (A.flt (A.const .eps) (referenceGain A fref srate taps) = true ∧
      normalise A fref srate taps
        = some (taps.map fun t => A.fdiv t (referenceGain A fref srate taps))) ∨
    (A.flt (A.const .eps) (referenceGain A fref srate taps) = false ∧
      normalise A fref srate taps = none) := by
  simp only [normalise]
  cases h : A.flt (A.const .eps) (referenceGain A fref srate taps) <;> simp

theorem normalise_length (A : Arith α) {fref srate : α} {taps scaled : List α}
    (h : normalise A fref srate taps = some scaled) : scaled.length = taps.length := by
  rcases normalise_cases A fref srate taps with ⟨-, h'⟩ | ⟨-, h'⟩
  · rw [h'] at h
    simp only [Option.some.injEq] at h
    simp [← h]
  · simp [h'] at h

end Sys2Proof.Machine
end

