-- ==== Sys2Proof/Laws/Float.lean ====
section
/-! SUPPORT. The laws of the numeric type: patterns and values go back and forth unchanged, and rounding
leaves a representable magnitude alone. -/

namespace Sys2Proof.Machine

/-! ### Rounding -/

theorem spacing_pos (t : Nat) : 0 < spacing t :=
  Nat.two_pow_pos _

/-- A multiple of the divisor is divided without rounding. -/
theorem roundHalfEven_mul (k : Nat) {d : Nat} (h : 0 < d) : roundHalfEven (k * d) d = k := by
  have h1 : k * d / d = k := Nat.mul_div_cancel k h
  have h2 : k * d % d = 0 := Nat.mul_mod_left k d
  simp only [roundHalfEven, h1, h2]
  rw [if_neg (by omega)]

/-- The rounded quotient is the quotient rounded down or up. -/
theorem roundHalfEven_cases (p d : Nat) :
    roundHalfEven p d = p / d ∨ roundHalfEven p d = p / d + 1 := by
  simp only [roundHalfEven]
  split
  · exact .inr rfl
  · exact .inl rfl

/-- A representable magnitude is a multiple of its own spacing. -/
theorem spacing_dvd {n : Nat} (h : Representable n) : spacing n ∣ n := by
  obtain ⟨k, e, hk, rfl⟩ := h
  rcases Nat.eq_zero_or_pos k with rfl | hpos
  · simp
  · have hne : k * 2 ^ e ≠ 0 := by positivity
    have hlt : Nat.log2 (k * 2 ^ e) < 53 + e := by
      rw [Nat.log2_lt hne, Nat.pow_add]
      exact Nat.mul_lt_mul_of_pos_right hk (Nat.two_pow_pos e)
    exact Dvd.dvd.mul_left (Nat.pow_dvd_pow 2 (by omega)) k

/-- Rounding leaves a representable magnitude alone. -/
theorem roundUnits_representable {n q : Nat} (h : Representable n) (hq : 0 < q) :
    roundUnits (n * q) q = n := by
  obtain ⟨k, hk⟩ := spacing_dvd h
  have hd : n * q / q = n := Nat.mul_div_cancel n hq
  have e : n * q = k * (q * spacing n) := by
    conv_lhs => rw [hk]
    ring
  simp only [roundUnits, hd]
  rw [e, roundHalfEven_mul k (Nat.mul_pos hq (spacing_pos n))]
  conv_rhs => rw [hk]
  exact Nat.mul_comm _ _

theorem roundF_representable {n q : Nat} (neg : Bool) (h : Representable n) (hn : n < overflowUnits)
    (hq : 0 < q) : roundF neg (n * q) q = .fin neg n := by
  simp only [roundF, roundUnits_representable h hq]
  rw [if_neg (by omega)]

/-! ### Patterns -/

theorem fractionBits_lt (w : Word) : (w.extractLsb' 0 52).toNat < 2 ^ 52 :=
  (w.extractLsb' 0 52).isLt

theorem exponentBits_lt (w : Word) : (w.extractLsb' 52 11).toNat < 2048 :=
  (w.extractLsb' 52 11).isLt

/-- A word is its sign, exponent and fraction. -/
theorem toNat_eq_fields (w : Word) :
    w.toNat = (w.getLsbD 63).toNat * 2 ^ 63 + (w.extractLsb' 52 11).toNat * 2 ^ 52
      + (w.extractLsb' 0 52).toNat := by
  have hw := w.isLt
  have hb : (w.getLsbD 63).toNat = w.toNat / 2 ^ 63 := by
    rw [BitVec.getLsbD, Nat.testBit_eq_decide_div_mod_eq]
    have : w.toNat / 2 ^ 63 < 2 := by omega
    interval_cases h : w.toNat / 2 ^ 63 <;> simp
  rw [hb, BitVec.extractLsb'_toNat, BitVec.extractLsb'_toNat, Nat.shiftRight_eq_div_pow,
    Nat.shiftRight_eq_div_pow]
  omega

/-- The magnitude of a normal value in units has its top bit where the exponent says. -/
theorem log2_normal {f e : Nat} (hf : f < 2 ^ 52) : Nat.log2 ((2 ^ 52 + f) * 2 ^ e) = 52 + e := by
  have hne : (2 ^ 52 + f) * 2 ^ e ≠ 0 := by positivity
  rw [Nat.log2_eq_iff hne]
  constructor
  · rw [Nat.pow_add]
    exact Nat.mul_le_mul_right _ (by omega)
  · rw [show 52 + e + 1 = 53 + e by omega, Nat.pow_add]
    exact Nat.mul_lt_mul_of_pos_right (by omega) (Nat.two_pow_pos e)

theorem finiteCode_normal {f e : Nat} (hf : f < 2 ^ 52) :
    finiteCode ((2 ^ 52 + f) * 2 ^ e) = (e + 1) * 2 ^ 52 + f := by
  have hge : ¬ (2 ^ 52 + f) * 2 ^ e < 2 ^ 52 := by
    have : 2 ^ 52 * 1 ≤ (2 ^ 52 + f) * 2 ^ e := Nat.mul_le_mul (by omega) Nat.one_le_two_pow
    omega
  simp only [finiteCode, if_neg hge, log2_normal hf, Nat.add_sub_cancel_left,
    Nat.mul_div_cancel _ (Nat.two_pow_pos e)]
  ring

/-- A pattern read as a value and put back is the same pattern, NaN payloads included (20_memory R62). -/
@[simp] theorem toWord_ofWord (free w : Word) : (F.ofWord w).toWord free = w := by
  have hw := toNat_eq_fields w
  have hf := fractionBits_lt w
  have he := exponentBits_lt w
  simp only [F.ofWord]
  split
  · rename_i h
    split
    · rename_i h0
      apply BitVec.eq_of_toNat_eq
      rw [F.toWord, BitVec.toNat_ofNat, hw, h, h0]
      cases w.getLsbD 63 <;> simp
    · rfl
  · split
    · rename_i h
      apply BitVec.eq_of_toNat_eq
      rw [F.toWord, BitVec.toNat_ofNat, hw, h, finiteCode, if_pos hf]
      have : (w.getLsbD 63).toNat < 2 := Bool.toNat_lt _
      omega
    · rename_i h1 h0
      apply BitVec.eq_of_toNat_eq
      rw [F.toWord, BitVec.toNat_ofNat, hw, finiteCode_normal hf, Nat.sub_add_cancel (by omega)]
      have : (w.getLsbD 63).toNat < 2 := Bool.toNat_lt _
      omega

/-- What a finite value read from a pattern is: representable and below the overflow bound. -/
theorem ofWord_fin {w : Word} {neg : Bool} {n : Nat} (h : F.ofWord w = .fin neg n) :
    Representable n ∧ n < overflowUnits := by
  have hf := fractionBits_lt w
  have he := exponentBits_lt w
  simp only [F.ofWord] at h
  split at h
  · split at h <;> simp at h
  · split at h
    · simp only [F.fin.injEq] at h
      refine ⟨⟨n, 0, by omega, by simp⟩, ?_⟩
      have hn : n < 2 ^ 52 := by omega
      have hle : 52 ≤ 2098 := by norm_num
      have hp := Nat.pow_le_pow_right Nat.zero_lt_two hle
      rw [overflowUnits]
      exact lt_of_lt_of_le hn hp
    · simp only [F.fin.injEq] at h
      obtain ⟨-, rfl⟩ := h
      refine ⟨⟨_, _, by omega, rfl⟩, ?_⟩
      refine lt_of_lt_of_le (Nat.mul_lt_mul_of_pos_right (show _ < 2 ^ 53 by omega) (Nat.two_pow_pos _)) ?_
      rw [← Nat.pow_add]
      exact Nat.pow_le_pow_right (by omega) (by omega)

/-! ### Operations on a NaN -/

@[simp] theorem fadd_nan_left (k : Option Word) (y : F) : fadd (.nan k) y = .anyNan := by
  cases y <;> rfl

@[simp] theorem fadd_nan_right (k : Option Word) (x : F) : fadd x (.nan k) = .anyNan := by
  cases x <;> rfl

@[simp] theorem fmul_nan_left (k : Option Word) (y : F) : fmul (.nan k) y = .anyNan := by
  cases y <;> rfl

@[simp] theorem fmul_nan_right (k : Option Word) (x : F) : fmul x (.nan k) = .anyNan := by
  cases x <;> rfl

@[simp] theorem fdiv_nan_left (k : Option Word) (y : F) : fdiv (.nan k) y = .anyNan := by
  cases y <;> rfl

@[simp] theorem fdiv_nan_right (k : Option Word) (x : F) : fdiv x (.nan k) = .anyNan := by
  cases x <;> rfl

end Sys2Proof.Machine
end

