-- ==== Sys2Proof/Laws/Memory.lean ====
section
/-! SUPPORT. The laws of the buffer memory: a read after a write gives the value written, a write leaves
every other byte alone, and every write keeps the canonical form. -/

namespace Sys2Proof.Machine

/-! ### One byte -/

@[simp] theorem lookupByte_storeByte_same (m : Memory) (a : Nat) (v : Byte) :
    lookupByte (storeByte m a v) a = some v := by
  induction m with
  | nil => simp [storeByte, lookupByte]
  | cons c rest ih =>
    obtain ⟨b, w⟩ := c
    simp only [storeByte]
    split
    · simp [lookupByte]
    · split
      · simp [lookupByte]
      · simp_all [lookupByte]

theorem lookupByte_storeByte_other (m : Memory) {a a' : Nat} (v : Byte) (h : a' ≠ a) :
    lookupByte (storeByte m a v) a' = lookupByte m a' := by
  induction m with
  | nil => simp [storeByte, lookupByte, h]
  | cons c rest ih =>
    obtain ⟨b, w⟩ := c
    simp only [storeByte]
    split
    · simp [lookupByte, h]
    · split
      · rename_i h1 h2; subst h2; simp [lookupByte, h]
      · simp [lookupByte, ih]

@[simp] theorem readByte_storeByte_same (m : Memory) (a : Nat) (v : Byte) :
    readByte (storeByte m a v) a = v := by
  simp [readByte]

theorem readByte_storeByte_other (m : Memory) {a a' : Nat} (v : Byte) (h : a' ≠ a) :
    readByte (storeByte m a v) a' = readByte m a' := by
  simp [readByte, lookupByte_storeByte_other m v h]

theorem readByte_storeByte (m : Memory) (a a' : Nat) (v : Byte) :
    readByte (storeByte m a v) a' = if a' = a then v else readByte m a' := by
  split
  · subst_vars; simp
  · rename_i h; exact readByte_storeByte_other m v h

/-! ### One word -/

/-- Every byte of memory after a word is written: the word's own eight bytes, the rest as before. -/
theorem readByte_writeWord (m : Memory) (a a' : Nat) (w : Word) :
    readByte (writeWord m a w) a'
      = if a ≤ a' ∧ a' < a + 8 then byteOf w (a' - a) else readByte m a' := by
  have hr : List.range 8 = [0, 1, 2, 3, 4, 5, 6, 7] := rfl
  simp only [writeWord, hr, List.foldl_cons, List.foldl_nil, readByte_storeByte]
  by_cases h : a ≤ a' ∧ a' < a + 8
  · obtain ⟨k, rfl⟩ := Nat.exists_eq_add_of_le h.1
    have hk : k < 8 := by omega
    rw [if_pos h, Nat.add_sub_cancel_left]
    interval_cases k <;> simp
  · rw [if_neg h]
    repeat rw [if_neg (by omega)]

theorem readByte_writeWord_outside (m : Memory) {a a' : Nat} (w : Word) (h : a' < a ∨ a + 8 ≤ a') :
    readByte (writeWord m a w) a' = readByte m a' := by
  rw [readByte_writeWord, if_neg (by omega)]

theorem readByte_writeWord_inside (m : Memory) (a : Nat) (w : Word) {k : Nat} (h : k < 8) :
    readByte (writeWord m a w) (a + k) = byteOf w k := by
  rw [readByte_writeWord, if_pos (by omega), Nat.add_sub_cancel_left]

/-- The eight bytes of a word, the seventh first, are the word. -/
theorem bytes_append (w : Word) :
    byteOf w 7 ++ byteOf w 6 ++ byteOf w 5 ++ byteOf w 4 ++ byteOf w 3 ++ byteOf w 2 ++ byteOf w 1
      ++ byteOf w 0 = w := by
  apply BitVec.eq_of_getLsbD_eq
  intro i hi
  simp only [byteOf, BitVec.getLsbD_append, BitVec.getLsbD_extractLsb']
  have : i < 64 := hi
  repeat' split
  all_goals
    rw [show (decide (_ < 8)) = true from decide_eq_true (by omega), Bool.true_and]
    congr 1
    omega

@[simp] theorem readWord_writeWord_same (m : Memory) (a : Nat) (w : Word) :
    readWord (writeWord m a w) a = w := by
  have h0 := readByte_writeWord_inside m a w (k := 0) (by omega)
  simp only [readWord, readByte_writeWord_inside m a w (k := 7) (by omega),
    readByte_writeWord_inside m a w (k := 6) (by omega),
    readByte_writeWord_inside m a w (k := 5) (by omega),
    readByte_writeWord_inside m a w (k := 4) (by omega),
    readByte_writeWord_inside m a w (k := 3) (by omega),
    readByte_writeWord_inside m a w (k := 2) (by omega),
    readByte_writeWord_inside m a w (k := 1) (by omega), Nat.add_zero] at h0 ⊢
  rw [h0]
  exact bytes_append w

theorem readWord_congr {m m' : Memory} {a : Nat}
    (h : ∀ k, k < 8 → readByte m' (a + k) = readByte m (a + k)) : readWord m' a = readWord m a := by
  have h0 := h 0 (by omega)
  simp only [Nat.add_zero] at h0
  simp only [readWord, h 7 (by omega), h 6 (by omega), h 5 (by omega), h 4 (by omega),
    h 3 (by omega), h 2 (by omega), h 1 (by omega), h0]

theorem readWord_writeWord_other (m : Memory) {a a' : Nat} (w : Word) (h : a' + 8 ≤ a ∨ a + 8 ≤ a') :
    readWord (writeWord m a w) a' = readWord m a' :=
  readWord_congr fun _ _ => readByte_writeWord_outside m w (by omega)

/-! ### Elements -/

@[simp] theorem readElem_writeElem_same (m : Memory) (b : Buffer) (i : Nat) (w : Word) :
    readElem (writeElem m b i w) b i = w := by
  simp [readElem, writeElem]

theorem readElem_writeElem_other (m : Memory) (b : Buffer) {i j : Nat} (w : Word) (h : j ≠ i) :
    readElem (writeElem m b i w) b j = readElem m b j := by
  apply readWord_writeWord_other
  simp only [elemOffset]
  omega

/-- The bytes of elements outside a run keep their value when the run is stored. -/
theorem readByte_storeElems_outside (m : Memory) (b : Buffer) (i : Nat) (ws : List Word) {a : Nat}
    (h : a < elemOffset b i ∨ elemOffset b (i + ws.length) ≤ a) :
    readByte (storeElems m b i ws) a = readByte m a := by
  induction ws generalizing m i with
  | nil => rfl
  | cons w ws ih =>
    simp only [List.length_cons, elemOffset] at h
    rw [storeElems, ih _ _ (by simp only [elemOffset]; omega)]
    exact readByte_writeWord_outside _ _ (by simp only [elemOffset]; omega)

/-- A stored run reads back. -/
theorem readElem_storeElems (m : Memory) (b : Buffer) (i : Nat) (ws : List Word) {k : Nat}
    (h : k < ws.length) : readElem (storeElems m b i ws) b (i + k) = ws[k] := by
  induction ws generalizing m i k with
  | nil => simp at h
  | cons w ws ih =>
    cases k with
    | zero =>
      have : readElem (storeElems (writeElem m b i w) b (i + 1) ws) b i = readElem (writeElem m b i w) b i :=
        readWord_congr fun k hk => readByte_storeElems_outside _ _ _ _
          (by simp only [elemOffset]; omega)
      simpa [storeElems] using this
    | succ k =>
      have hk : k < ws.length := by simpa using h
      have e : i + (k + 1) = i + 1 + k := by omega
      rw [storeElems, e, ih _ _ hk]
      rfl

/-- An element of one buffer keeps its value when a run that fits another buffer is stored there. -/
theorem readElem_storeElems_otherBuffer (m : Memory) {b c : Buffer} (ws : List Word) {i : Nat}
    (hne : c ≠ b) (hi : i < bufferDepth c) (hl : ws.length ≤ bufferDepth b) :
    readElem (storeElems m b 0 ws) c i = readElem m c i := by
  refine readWord_congr fun k hk => readByte_storeElems_outside _ _ _ _ ?_
  cases b <;> cases c <;>
    simp_all [elemOffset, bufferBase, bufferDepth, Config.fftMaxLen, Config.tapDepth] <;> omega

@[simp] theorem loadElems_length (m : Memory) (b : Buffer) (n : Nat) : (loadElems m b n).length = n := by
  simp [loadElems]

@[simp] theorem freePatterns_length (d : Nat) (xs : List F) : (freePatterns d xs).length = xs.length := by
  induction xs generalizing d with
  | nil => rfl
  | cons x xs ih => simp [freePatterns, ih]

theorem freePatterns_getElem (d : Nat) (xs : List F) {k : Nat} (h : k < xs.length) :
    (freePatterns d xs)[k]'(by simpa using h) = (xs[k]).toWord (Config.freeWord (d + k)) := by
  induction xs generalizing d k with
  | nil => simp at h
  | cons x xs ih =>
    cases k with
    | zero => simp [freePatterns]
    | succ k =>
      have hk : k < xs.length := by simpa using h
      simp only [freePatterns, List.getElem_cons_succ]
      rw [ih (d + 1) hk, Nat.add_assoc, Nat.add_comm 1 k]

/-- Values written to a buffer read back as their patterns. -/
theorem readElem_storeValues (s : State) (b : Buffer) (xs : List F) {k : Nat} (h : k < xs.length) :
    readElem (s.storeValues b xs).mem b k = (xs[k]).toWord (Config.freeWord (s.draws + k)) := by
  have := readElem_storeElems s.mem b 0 (freePatterns s.draws xs) (k := k) (by simpa using h)
  rw [Nat.zero_add] at this
  rw [← freePatterns_getElem s.draws xs h, ← this]
  rfl

/-- Every byte outside the written elements keeps its value. -/
theorem readByte_storeValues_outside (s : State) (b : Buffer) (xs : List F) {a : Nat}
    (h : a < bufferBase b ∨ elemOffset b xs.length ≤ a) :
    readByte (s.storeValues b xs).mem a = readByte s.mem a :=
  readByte_storeElems_outside _ _ _ _ (by simpa [elemOffset] using h)

/-! ### The canonical form -/

theorem risingFrom_mono {m : Memory} {lo lo' : Nat} (h : lo' ≤ lo) (hm : risingFrom lo m = true) :
    risingFrom lo' m = true := by
  cases m with
  | nil => rfl
  | cons c rest =>
    simp only [risingFrom, Bool.and_eq_true, decide_eq_true_eq] at hm ⊢
    exact ⟨⟨by omega, hm.1.2⟩, hm.2⟩

theorem risingFrom_storeByte {m : Memory} {lo a : Nat} (v : Byte) (hm : risingFrom lo m = true)
    (hlo : lo ≤ a) (hhi : a < 0x01A00000) : risingFrom lo (storeByte m a v) = true := by
  induction m generalizing lo with
  | nil => simp [storeByte, risingFrom, hlo, hhi]
  | cons c rest ih =>
    obtain ⟨b, w⟩ := c
    simp only [risingFrom, Bool.and_eq_true, decide_eq_true_eq] at hm
    simp only [storeByte]
    split
    · simp only [risingFrom, Bool.and_eq_true, decide_eq_true_eq]
      exact ⟨⟨hlo, hhi⟩, ⟨by omega, hm.1.2⟩, hm.2⟩
    · split
      · rename_i h1 h2
        subst h2
        simp only [risingFrom, Bool.and_eq_true, decide_eq_true_eq]
        exact ⟨⟨hlo, hhi⟩, hm.2⟩
      · simp only [risingFrom, Bool.and_eq_true, decide_eq_true_eq]
        exact ⟨hm.1, ih hm.2 (by omega)⟩

/-- A byte written inside the buffers keeps the canonical form. -/
theorem wf_storeByte {m : Memory} {a : Nat} (v : Byte) (hm : Memory.wf m = true)
    (hlo : 0x00800000 ≤ a) (hhi : a < 0x01A00000) : Memory.wf (storeByte m a v) = true :=
  risingFrom_storeByte v hm hlo hhi

theorem wf_writeWord {m : Memory} {a : Nat} (w : Word) (hm : Memory.wf m = true)
    (hlo : 0x00800000 ≤ a) (hhi : a + 8 ≤ 0x01A00000) : Memory.wf (writeWord m a w) = true := by
  have hr : List.range 8 = [0, 1, 2, 3, 4, 5, 6, 7] := rfl
  simp only [writeWord, hr, List.foldl_cons, List.foldl_nil]
  repeat' apply wf_storeByte
  all_goals first | exact hm | omega

theorem elemOffset_bounds (b : Buffer) {i : Nat} (h : i < bufferDepth b) :
    0x00800000 ≤ elemOffset b i ∧ elemOffset b i + 8 ≤ 0x01A00000 := by
  cases b <;> simp_all [elemOffset, bufferBase, bufferDepth, Config.fftMaxLen, Config.tapDepth] <;> omega

/-- An element written inside its buffer keeps the canonical form. -/
theorem wf_writeElem {m : Memory} {b : Buffer} {i : Nat} (w : Word) (hm : Memory.wf m = true)
    (h : i < bufferDepth b) : Memory.wf (writeElem m b i w) = true :=
  wf_writeWord w hm (elemOffset_bounds b h).1 (elemOffset_bounds b h).2

/-- A run written inside its buffer keeps the canonical form. -/
theorem wf_storeElems {m : Memory} {b : Buffer} {i : Nat} (ws : List Word) (hm : Memory.wf m = true)
    (h : i + ws.length ≤ bufferDepth b) : Memory.wf (storeElems m b i ws) = true := by
  induction ws generalizing m i with
  | nil => exact hm
  | cons w ws ih =>
    simp only [List.length_cons] at h
    exact ih (wf_writeElem w hm (by omega)) (by omega)

theorem wf_storeValues {s : State} {b : Buffer} (xs : List F) (hm : Memory.wf s.mem = true)
    (h : xs.length ≤ bufferDepth b) : Memory.wf (s.storeValues b xs).mem = true :=
  wf_storeElems _ hm (by simpa using h)

theorem wf_havoc {s : State} {b : Buffer} {n : Nat} (hm : Memory.wf s.mem = true)
    (h : n ≤ bufferDepth b) : Memory.wf (s.havoc b n).mem = true :=
  wf_storeElems _ hm (by simpa using h)

/-- The memory after power-up has the canonical form. -/
theorem wf_reset : Memory.wf State.reset.mem = true := rfl

end Sys2Proof.Machine
end

