-- ==== Sys2Proof/Laws/PerInstr.lean ====
section
/-! SUPPORT. The per-instruction family `WordFields`: the word of a command has, by position, exactly the
fields the spec gives the command (30_encoding R81 to R84), and they are well formed. -/

namespace Sys2Proof.Laws

/-- The fields of the encoded word are the command's, and pass every check of WellFormed. -/
def WordFields.Statement (i : Instr) : Prop :=
  commandFields (encode i) = i.fields ∧ i.wellFormed = true

theorem WordFields.fft : WordFields.Statement .fft := by
  unfold WordFields.Statement; decide

theorem WordFields.ifft : WordFields.Statement .ifft := by
  unfold WordFields.Statement; decide

theorem WordFields.npot : WordFields.Statement .npot := by
  unfold WordFields.Statement; decide

theorem WordFields.firlp (win : Window) (norm f2v kbv : Bool) :
    WordFields.Statement (.firlp win norm f2v kbv) := by
  unfold WordFields.Statement; cases win <;> revert norm f2v kbv <;> decide

theorem WordFields.firhp (win : Window) (norm f2v kbv : Bool) :
    WordFields.Statement (.firhp win norm f2v kbv) := by
  unfold WordFields.Statement; cases win <;> revert norm f2v kbv <;> decide

theorem WordFields.firbp (win : Window) (norm f2v kbv : Bool) :
    WordFields.Statement (.firbp win norm f2v kbv) := by
  unfold WordFields.Statement; cases win <;> revert norm f2v kbv <;> decide

theorem WordFields.firbs (win : Window) (norm f2v kbv : Bool) :
    WordFields.Statement (.firbs win norm f2v kbv) := by
  unfold WordFields.Statement; cases win <;> revert norm f2v kbv <;> decide

end Sys2Proof.Laws
end

