-- ==== Sys2Proof/Laws/State.lean ====
section
/-! SUPPORT. What each named update of State does to each field: one lemma per field per update, so that no
proof unfolds a record update. -/

namespace Sys2Proof.Machine.State

variable (s : State)

/-! ### storeValues -/

@[simp] theorem storeValues_busy (b : Buffer) (xs : List F) : (s.storeValues b xs).busy = s.busy := rfl
@[simp] theorem storeValues_done (b : Buffer) (xs : List F) : (s.storeValues b xs).done = s.done := rfl
@[simp] theorem storeValues_err (b : Buffer) (xs : List F) : (s.storeValues b xs).err = s.err := rfl
@[simp] theorem storeValues_ovr (b : Buffer) (xs : List F) : (s.storeValues b xs).ovr = s.ovr := rfl
@[simp] theorem storeValues_errcode (b : Buffer) (xs : List F) : (s.storeValues b xs).errcode = s.errcode := rfl
@[simp] theorem storeValues_wns (b : Buffer) (xs : List F) : (s.storeValues b xs).wns = s.wns := rfl
@[simp] theorem storeValues_ie (b : Buffer) (xs : List F) : (s.storeValues b xs).ie = s.ie := rfl
@[simp] theorem storeValues_len (b : Buffer) (xs : List F) : (s.storeValues b xs).len = s.len := rfl
@[simp] theorem storeValues_npotIn (b : Buffer) (xs : List F) : (s.storeValues b xs).npotIn = s.npotIn := rfl
@[simp] theorem storeValues_npotOut (b : Buffer) (xs : List F) : (s.storeValues b xs).npotOut = s.npotOut := rfl
@[simp] theorem storeValues_taps (b : Buffer) (xs : List F) : (s.storeValues b xs).taps = s.taps := rfl
@[simp] theorem storeValues_srate (b : Buffer) (xs : List F) : (s.storeValues b xs).srate = s.srate := rfl
@[simp] theorem storeValues_f1 (b : Buffer) (xs : List F) : (s.storeValues b xs).f1 = s.f1 := rfl
@[simp] theorem storeValues_f2 (b : Buffer) (xs : List F) : (s.storeValues b xs).f2 = s.f2 := rfl
@[simp] theorem storeValues_kbeta (b : Buffer) (xs : List F) : (s.storeValues b xs).kbeta = s.kbeta := rfl
@[simp] theorem storeValues_lastcmd (b : Buffer) (xs : List F) : (s.storeValues b xs).lastcmd = s.lastcmd := rfl
@[simp] theorem storeValues_mem (b : Buffer) (xs : List F) : (s.storeValues b xs).mem = storeElems s.mem b 0 (freePatterns s.draws xs) := rfl
@[simp] theorem storeValues_draws (b : Buffer) (xs : List F) : (s.storeValues b xs).draws = s.draws + xs.length := rfl
@[simp] theorem storeValues_script (b : Buffer) (xs : List F) : (s.storeValues b xs).script = s.script := rfl
@[simp] theorem storeValues_answer (b : Buffer) (xs : List F) : (s.storeValues b xs).answer = s.answer := rfl
@[simp] theorem storeValues_everFailed (b : Buffer) (xs : List F) : (s.storeValues b xs).everFailed = s.everFailed := rfl

/-! ### havoc -/

@[simp] theorem havoc_busy (b : Buffer) (n : Nat) : (s.havoc b n).busy = s.busy := rfl
@[simp] theorem havoc_done (b : Buffer) (n : Nat) : (s.havoc b n).done = s.done := rfl
@[simp] theorem havoc_err (b : Buffer) (n : Nat) : (s.havoc b n).err = s.err := rfl
@[simp] theorem havoc_ovr (b : Buffer) (n : Nat) : (s.havoc b n).ovr = s.ovr := rfl
@[simp] theorem havoc_errcode (b : Buffer) (n : Nat) : (s.havoc b n).errcode = s.errcode := rfl
@[simp] theorem havoc_wns (b : Buffer) (n : Nat) : (s.havoc b n).wns = s.wns := rfl
@[simp] theorem havoc_ie (b : Buffer) (n : Nat) : (s.havoc b n).ie = s.ie := rfl
@[simp] theorem havoc_len (b : Buffer) (n : Nat) : (s.havoc b n).len = s.len := rfl
@[simp] theorem havoc_npotIn (b : Buffer) (n : Nat) : (s.havoc b n).npotIn = s.npotIn := rfl
@[simp] theorem havoc_npotOut (b : Buffer) (n : Nat) : (s.havoc b n).npotOut = s.npotOut := rfl
@[simp] theorem havoc_taps (b : Buffer) (n : Nat) : (s.havoc b n).taps = s.taps := rfl
@[simp] theorem havoc_srate (b : Buffer) (n : Nat) : (s.havoc b n).srate = s.srate := rfl
@[simp] theorem havoc_f1 (b : Buffer) (n : Nat) : (s.havoc b n).f1 = s.f1 := rfl
@[simp] theorem havoc_f2 (b : Buffer) (n : Nat) : (s.havoc b n).f2 = s.f2 := rfl
@[simp] theorem havoc_kbeta (b : Buffer) (n : Nat) : (s.havoc b n).kbeta = s.kbeta := rfl
@[simp] theorem havoc_lastcmd (b : Buffer) (n : Nat) : (s.havoc b n).lastcmd = s.lastcmd := rfl
@[simp] theorem havoc_mem (b : Buffer) (n : Nat) : (s.havoc b n).mem = storeElems s.mem b 0 ((List.range n).map fun i => Config.freeWord (s.draws + i)) := rfl
@[simp] theorem havoc_draws (b : Buffer) (n : Nat) : (s.havoc b n).draws = s.draws + n := rfl
@[simp] theorem havoc_script (b : Buffer) (n : Nat) : (s.havoc b n).script = s.script := rfl
@[simp] theorem havoc_answer (b : Buffer) (n : Nat) : (s.havoc b n).answer = s.answer := rfl
@[simp] theorem havoc_everFailed (b : Buffer) (n : Nat) : (s.havoc b n).everFailed = s.everFailed := rfl

/-! ### accept -/

@[simp] theorem accept_busy (v : Word) : (s.accept v).busy = true := rfl
@[simp] theorem accept_done (v : Word) : (s.accept v).done = false := rfl
@[simp] theorem accept_err (v : Word) : (s.accept v).err = false := rfl
@[simp] theorem accept_ovr (v : Word) : (s.accept v).ovr = s.ovr := rfl
@[simp] theorem accept_errcode (v : Word) : (s.accept v).errcode = .noError := rfl
@[simp] theorem accept_wns (v : Word) : (s.accept v).wns = false := rfl
@[simp] theorem accept_ie (v : Word) : (s.accept v).ie = s.ie := rfl
@[simp] theorem accept_len (v : Word) : (s.accept v).len = s.len := rfl
@[simp] theorem accept_npotIn (v : Word) : (s.accept v).npotIn = s.npotIn := rfl
@[simp] theorem accept_npotOut (v : Word) : (s.accept v).npotOut = s.npotOut := rfl
@[simp] theorem accept_taps (v : Word) : (s.accept v).taps = s.taps := rfl
@[simp] theorem accept_srate (v : Word) : (s.accept v).srate = s.srate := rfl
@[simp] theorem accept_f1 (v : Word) : (s.accept v).f1 = s.f1 := rfl
@[simp] theorem accept_f2 (v : Word) : (s.accept v).f2 = s.f2 := rfl
@[simp] theorem accept_kbeta (v : Word) : (s.accept v).kbeta = s.kbeta := rfl
@[simp] theorem accept_lastcmd (v : Word) : (s.accept v).lastcmd = v := rfl
@[simp] theorem accept_mem (v : Word) : (s.accept v).mem = s.mem := rfl
@[simp] theorem accept_draws (v : Word) : (s.accept v).draws = s.draws := rfl
@[simp] theorem accept_script (v : Word) : (s.accept v).script = s.script := rfl
@[simp] theorem accept_answer (v : Word) : (s.accept v).answer = s.answer := rfl
@[simp] theorem accept_everFailed (v : Word) : (s.accept v).everFailed = s.everFailed := rfl

/-! ### raiseError -/

@[simp] theorem raiseError_busy (e : ErrCode) : (s.raiseError e).busy = false := rfl
@[simp] theorem raiseError_done (e : ErrCode) : (s.raiseError e).done = true := rfl
@[simp] theorem raiseError_err (e : ErrCode) : (s.raiseError e).err = true := rfl
@[simp] theorem raiseError_ovr (e : ErrCode) : (s.raiseError e).ovr = s.ovr := rfl
@[simp] theorem raiseError_errcode (e : ErrCode) : (s.raiseError e).errcode = e := rfl
@[simp] theorem raiseError_wns (e : ErrCode) : (s.raiseError e).wns = false := rfl
@[simp] theorem raiseError_ie (e : ErrCode) : (s.raiseError e).ie = s.ie := rfl
@[simp] theorem raiseError_len (e : ErrCode) : (s.raiseError e).len = s.len := rfl
@[simp] theorem raiseError_npotIn (e : ErrCode) : (s.raiseError e).npotIn = s.npotIn := rfl
@[simp] theorem raiseError_npotOut (e : ErrCode) : (s.raiseError e).npotOut = s.npotOut := rfl
@[simp] theorem raiseError_taps (e : ErrCode) : (s.raiseError e).taps = s.taps := rfl
@[simp] theorem raiseError_srate (e : ErrCode) : (s.raiseError e).srate = s.srate := rfl
@[simp] theorem raiseError_f1 (e : ErrCode) : (s.raiseError e).f1 = s.f1 := rfl
@[simp] theorem raiseError_f2 (e : ErrCode) : (s.raiseError e).f2 = s.f2 := rfl
@[simp] theorem raiseError_kbeta (e : ErrCode) : (s.raiseError e).kbeta = s.kbeta := rfl
@[simp] theorem raiseError_lastcmd (e : ErrCode) : (s.raiseError e).lastcmd = s.lastcmd := rfl
@[simp] theorem raiseError_mem (e : ErrCode) : (s.raiseError e).mem = s.mem := rfl
@[simp] theorem raiseError_draws (e : ErrCode) : (s.raiseError e).draws = s.draws := rfl
@[simp] theorem raiseError_script (e : ErrCode) : (s.raiseError e).script = s.script := rfl
@[simp] theorem raiseError_answer (e : ErrCode) : (s.raiseError e).answer = s.answer := rfl
@[simp] theorem raiseError_everFailed (e : ErrCode) : (s.raiseError e).everFailed = true := rfl

/-! ### complete -/

@[simp] theorem complete_busy (w : Bool) : (s.complete w).busy = false := rfl
@[simp] theorem complete_done (w : Bool) : (s.complete w).done = true := rfl
@[simp] theorem complete_err (w : Bool) : (s.complete w).err = false := rfl
@[simp] theorem complete_ovr (w : Bool) : (s.complete w).ovr = s.ovr := rfl
@[simp] theorem complete_errcode (w : Bool) : (s.complete w).errcode = .noError := rfl
@[simp] theorem complete_wns (w : Bool) : (s.complete w).wns = w := rfl
@[simp] theorem complete_ie (w : Bool) : (s.complete w).ie = s.ie := rfl
@[simp] theorem complete_len (w : Bool) : (s.complete w).len = s.len := rfl
@[simp] theorem complete_npotIn (w : Bool) : (s.complete w).npotIn = s.npotIn := rfl
@[simp] theorem complete_npotOut (w : Bool) : (s.complete w).npotOut = s.npotOut := rfl
@[simp] theorem complete_taps (w : Bool) : (s.complete w).taps = s.taps := rfl
@[simp] theorem complete_srate (w : Bool) : (s.complete w).srate = s.srate := rfl
@[simp] theorem complete_f1 (w : Bool) : (s.complete w).f1 = s.f1 := rfl
@[simp] theorem complete_f2 (w : Bool) : (s.complete w).f2 = s.f2 := rfl
@[simp] theorem complete_kbeta (w : Bool) : (s.complete w).kbeta = s.kbeta := rfl
@[simp] theorem complete_lastcmd (w : Bool) : (s.complete w).lastcmd = s.lastcmd := rfl
@[simp] theorem complete_mem (w : Bool) : (s.complete w).mem = s.mem := rfl
@[simp] theorem complete_draws (w : Bool) : (s.complete w).draws = s.draws := rfl
@[simp] theorem complete_script (w : Bool) : (s.complete w).script = s.script := rfl
@[simp] theorem complete_answer (w : Bool) : (s.complete w).answer = s.answer := rfl
@[simp] theorem complete_everFailed (w : Bool) : (s.complete w).everFailed = s.everFailed := rfl

/-! ### clearStatus -/

@[simp] theorem clearStatus_busy (v : Word) : (s.clearStatus v).busy = s.busy := rfl
@[simp] theorem clearStatus_done (v : Word) : (s.clearStatus v).done = (s.done && !v.getLsbD 1) := rfl
@[simp] theorem clearStatus_err (v : Word) : (s.clearStatus v).err = s.err := rfl
@[simp] theorem clearStatus_ovr (v : Word) : (s.clearStatus v).ovr = (s.ovr && !v.getLsbD 3) := rfl
@[simp] theorem clearStatus_errcode (v : Word) : (s.clearStatus v).errcode = s.errcode := rfl
@[simp] theorem clearStatus_wns (v : Word) : (s.clearStatus v).wns = s.wns := rfl
@[simp] theorem clearStatus_ie (v : Word) : (s.clearStatus v).ie = s.ie := rfl
@[simp] theorem clearStatus_len (v : Word) : (s.clearStatus v).len = s.len := rfl
@[simp] theorem clearStatus_npotIn (v : Word) : (s.clearStatus v).npotIn = s.npotIn := rfl
@[simp] theorem clearStatus_npotOut (v : Word) : (s.clearStatus v).npotOut = s.npotOut := rfl
@[simp] theorem clearStatus_taps (v : Word) : (s.clearStatus v).taps = s.taps := rfl
@[simp] theorem clearStatus_srate (v : Word) : (s.clearStatus v).srate = s.srate := rfl
@[simp] theorem clearStatus_f1 (v : Word) : (s.clearStatus v).f1 = s.f1 := rfl
@[simp] theorem clearStatus_f2 (v : Word) : (s.clearStatus v).f2 = s.f2 := rfl
@[simp] theorem clearStatus_kbeta (v : Word) : (s.clearStatus v).kbeta = s.kbeta := rfl
@[simp] theorem clearStatus_lastcmd (v : Word) : (s.clearStatus v).lastcmd = s.lastcmd := rfl
@[simp] theorem clearStatus_mem (v : Word) : (s.clearStatus v).mem = s.mem := rfl
@[simp] theorem clearStatus_draws (v : Word) : (s.clearStatus v).draws = s.draws := rfl
@[simp] theorem clearStatus_script (v : Word) : (s.clearStatus v).script = s.script := rfl
@[simp] theorem clearStatus_answer (v : Word) : (s.clearStatus v).answer = s.answer := rfl
@[simp] theorem clearStatus_everFailed (v : Word) : (s.clearStatus v).everFailed = s.everFailed := rfl

/-! ### dropWrite -/

@[simp] theorem dropWrite_busy : (s.dropWrite).busy = s.busy := rfl
@[simp] theorem dropWrite_done : (s.dropWrite).done = s.done := rfl
@[simp] theorem dropWrite_err : (s.dropWrite).err = s.err := rfl
@[simp] theorem dropWrite_ovr : (s.dropWrite).ovr = true := rfl
@[simp] theorem dropWrite_errcode : (s.dropWrite).errcode = s.errcode := rfl
@[simp] theorem dropWrite_wns : (s.dropWrite).wns = s.wns := rfl
@[simp] theorem dropWrite_ie : (s.dropWrite).ie = s.ie := rfl
@[simp] theorem dropWrite_len : (s.dropWrite).len = s.len := rfl
@[simp] theorem dropWrite_npotIn : (s.dropWrite).npotIn = s.npotIn := rfl
@[simp] theorem dropWrite_npotOut : (s.dropWrite).npotOut = s.npotOut := rfl
@[simp] theorem dropWrite_taps : (s.dropWrite).taps = s.taps := rfl
@[simp] theorem dropWrite_srate : (s.dropWrite).srate = s.srate := rfl
@[simp] theorem dropWrite_f1 : (s.dropWrite).f1 = s.f1 := rfl
@[simp] theorem dropWrite_f2 : (s.dropWrite).f2 = s.f2 := rfl
@[simp] theorem dropWrite_kbeta : (s.dropWrite).kbeta = s.kbeta := rfl
@[simp] theorem dropWrite_lastcmd : (s.dropWrite).lastcmd = s.lastcmd := rfl
@[simp] theorem dropWrite_mem : (s.dropWrite).mem = s.mem := rfl
@[simp] theorem dropWrite_draws : (s.dropWrite).draws = s.draws := rfl
@[simp] theorem dropWrite_script : (s.dropWrite).script = s.script := rfl
@[simp] theorem dropWrite_answer : (s.dropWrite).answer = s.answer := rfl
@[simp] theorem dropWrite_everFailed : (s.dropWrite).everFailed = s.everFailed := rfl

/-! ### respond -/

@[simp] theorem respond_busy (a : PortAnswer) : (s.respond a).busy = s.busy := rfl
@[simp] theorem respond_done (a : PortAnswer) : (s.respond a).done = s.done := rfl
@[simp] theorem respond_err (a : PortAnswer) : (s.respond a).err = s.err := rfl
@[simp] theorem respond_ovr (a : PortAnswer) : (s.respond a).ovr = s.ovr := rfl
@[simp] theorem respond_errcode (a : PortAnswer) : (s.respond a).errcode = s.errcode := rfl
@[simp] theorem respond_wns (a : PortAnswer) : (s.respond a).wns = s.wns := rfl
@[simp] theorem respond_ie (a : PortAnswer) : (s.respond a).ie = s.ie := rfl
@[simp] theorem respond_len (a : PortAnswer) : (s.respond a).len = s.len := rfl
@[simp] theorem respond_npotIn (a : PortAnswer) : (s.respond a).npotIn = s.npotIn := rfl
@[simp] theorem respond_npotOut (a : PortAnswer) : (s.respond a).npotOut = s.npotOut := rfl
@[simp] theorem respond_taps (a : PortAnswer) : (s.respond a).taps = s.taps := rfl
@[simp] theorem respond_srate (a : PortAnswer) : (s.respond a).srate = s.srate := rfl
@[simp] theorem respond_f1 (a : PortAnswer) : (s.respond a).f1 = s.f1 := rfl
@[simp] theorem respond_f2 (a : PortAnswer) : (s.respond a).f2 = s.f2 := rfl
@[simp] theorem respond_kbeta (a : PortAnswer) : (s.respond a).kbeta = s.kbeta := rfl
@[simp] theorem respond_lastcmd (a : PortAnswer) : (s.respond a).lastcmd = s.lastcmd := rfl
@[simp] theorem respond_mem (a : PortAnswer) : (s.respond a).mem = s.mem := rfl
@[simp] theorem respond_draws (a : PortAnswer) : (s.respond a).draws = s.draws := rfl
@[simp] theorem respond_script (a : PortAnswer) : (s.respond a).script = s.script := rfl
@[simp] theorem respond_answer (a : PortAnswer) : (s.respond a).answer = some a := rfl
@[simp] theorem respond_everFailed (a : PortAnswer) : (s.respond a).everFailed = s.everFailed := rfl

/-! ### assertReset -/

@[simp] theorem assertReset_busy : s.assertReset.busy = false := rfl
@[simp] theorem assertReset_done : s.assertReset.done = false := rfl
@[simp] theorem assertReset_err : s.assertReset.err = false := rfl
@[simp] theorem assertReset_ovr : s.assertReset.ovr = false := rfl
@[simp] theorem assertReset_errcode : s.assertReset.errcode = .noError := rfl
@[simp] theorem assertReset_wns : s.assertReset.wns = false := rfl
@[simp] theorem assertReset_ie : s.assertReset.ie = false := rfl
@[simp] theorem assertReset_len : s.assertReset.len = 0 := rfl
@[simp] theorem assertReset_npotIn : s.assertReset.npotIn = 0 := rfl
@[simp] theorem assertReset_npotOut : s.assertReset.npotOut = 0 := rfl
@[simp] theorem assertReset_taps : s.assertReset.taps = 0 := rfl
@[simp] theorem assertReset_srate : s.assertReset.srate = 0 := rfl
@[simp] theorem assertReset_f1 : s.assertReset.f1 = 0 := rfl
@[simp] theorem assertReset_f2 : s.assertReset.f2 = 0 := rfl
@[simp] theorem assertReset_kbeta : s.assertReset.kbeta = 0 := rfl
@[simp] theorem assertReset_lastcmd : s.assertReset.lastcmd = 0 := rfl
@[simp] theorem assertReset_mem : s.assertReset.mem = s.abandon.mem := rfl
@[simp] theorem assertReset_draws : s.assertReset.draws = s.abandon.draws := rfl
@[simp] theorem assertReset_script : s.assertReset.script = s.script := rfl
@[simp] theorem assertReset_answer : s.assertReset.answer = s.answer := rfl
@[simp] theorem assertReset_everFailed : s.assertReset.everFailed = s.everFailed := rfl

end Sys2Proof.Machine.State
end

