-- ==== Sys2Proof/Laws/Step.lean ====
section
/-! SUPPORT. Everything each shared operation can do, said once: a proof about the machine takes these case
lemmas apart and unfolds nothing. -/

namespace Sys2Proof.Machine

/-! ### The step -/

/-- A step is the engine's, a pause, or the host's next action. -/
theorem step_cases {s t : State} (h : step s = .next t) :
    (s.busy = true ∧ s.engineGoesFirst = true ∧ engineStep s = .next t) ∨
    (s.busy = false ∧ s.script = [] ∧ t = s) ∨
    (∃ turn rest, s.script = turn :: rest ∧ ¬(s.busy = true ∧ turn.engineFirst = true) ∧
      t = State.hostStep { s with script := rest } turn.action) := by
  simp only [step] at h
  split at h
  · rename_i hb
    simp only [Bool.and_eq_true] at hb
    exact .inl ⟨hb.1, hb.2, h⟩
  · rename_i hb
    simp only [Bool.and_eq_true, not_and, Bool.not_eq_true] at hb
    split at h
    · rename_i hs
      simp only [State.engineGoesFirst, hs, Bool.true_eq_false, imp_false, Bool.not_eq_true] at hb
      simp only [Host.Outcome.next.injEq] at h
      exact .inr (.inl ⟨hb, hs, h.symm⟩)
    · rename_i turn rest hs
      simp only [State.engineGoesFirst, hs] at hb
      simp only [Host.Outcome.next.injEq] at h
      exact .inr (.inr ⟨turn, rest, hs, fun hh => by simp [hb hh.1] at hh, h.symm⟩)

/-- The execute step runs the decoded command, or completes an illegal word in error. -/
theorem engineStep_cases {s t : State} (h : engineStep s = .next t) :
    (∃ i, decode s.lastcmd = .command i ∧ exec i s = .next t) ∨
    (∃ why, decode s.lastcmd = .illegal why ∧ t = s.raiseError .illegalCmd) := by
  simp only [engineStep] at h
  split at h
  · rename_i i hd
    exact .inl ⟨i, hd, h⟩
  · rename_i why hd
    simp only [Host.Outcome.next.injEq] at h
    exact .inr ⟨why, hd, h.symm⟩

/-! ### The commands' shared operations -/

/-- A transform fails with `E_INVALID_INPUT` and changes nothing else, or writes every point. -/
theorem runTransform_cases (f : Nat → List (F × F) → List (F × F)) (s : State) :
    (badLength s.pointCount = true ∧ runTransform f s = s.raiseError .invalidInput) ∨
    (badLength s.pointCount = false ∧
      runTransform f s = ((s.storeValues .re ((f s.pointCount (s.points s.pointCount)).map Prod.fst)).storeValues
        .im ((f s.pointCount (s.points s.pointCount)).map Prod.snd)).complete false) := by
  simp only [runTransform]
  cases h : badLength s.pointCount <;> simp

/-- The third phase writes normalised taps, or the taps as they are, with the warning when normalisation was
asked for and skipped. -/
theorem finishDesign_cases (s : State) (norm : Bool) (fref : F) (taps : List F) :
    (∃ scaled, norm = true ∧ normalise binary64 fref s.sampleRate taps = some scaled ∧
      s.finishDesign norm fref taps = (s.storeValues .tap scaled).complete false) ∨
    (norm = true ∧ normalise binary64 fref s.sampleRate taps = none ∧
      s.finishDesign norm fref taps = (s.storeValues .tap taps).complete true) ∨
    (norm = false ∧ s.finishDesign norm fref taps = (s.storeValues .tap taps).complete false) := by
  cases norm with
  | false => simp [State.finishDesign]
  | true =>
    cases h : normalise binary64 fref s.sampleRate taps with
    | none => simp [State.finishDesign, h]
    | some scaled => simp [State.finishDesign, h]

/-- The checks of a design: which one fails first, or that all pass. -/
theorem designCheck_cases (s : State) (needsF2 f2v : Bool) :
    (s.goodRate = false ∧ s.designCheck needsF2 f2v = some .invalidParam) ∨
    (s.goodRate = true ∧ needsF2 = true ∧ f2v = false ∧ s.designCheck needsF2 f2v = some .missingParam) ∨
    (s.goodRate = true ∧ (needsF2 = true → f2v = true) ∧ Config.tapsMax < s.tapCount ∧
      s.designCheck needsF2 f2v = some .invalidParam) ∨
    (s.goodRate = true ∧ (needsF2 = true → f2v = true) ∧ s.tapCount ≤ Config.tapsMax ∧
      s.designCheck needsF2 f2v = none) := by
  simp only [State.designCheck]
  cases s.goodRate <;> cases needsF2 <;> cases f2v <;> simp <;> omega

/-- A design completes in error by one of its checks, or runs to its third phase. -/
theorem runDesign_cases (s : State) (needsF2 : Bool) (win : Window) (norm f2v kbv : Bool)
    (ideal : F → Nat → F) (fref : F) :
    (∃ e, s.designCheck needsF2 f2v = some e ∧
      s.runDesign needsF2 win norm f2v kbv ideal fref = s.raiseError e) ∨
    (s.designCheck needsF2 f2v = none ∧
      s.runDesign needsF2 win norm f2v kbv ideal fref
        = s.finishDesign norm fref
            (windowedTaps binary64 win (s.beta kbv) s.tapCount (ideal (centre binary64 s.tapCount)))) := by
  simp only [State.runDesign]
  cases s.designCheck needsF2 f2v with
  | none => exact .inr ⟨rfl, rfl⟩
  | some e => exact .inl ⟨e, rfl, rfl⟩

/-! ### The port -/

/-- A read answers a bus error, a register, a fresh free value (a buffer while busy) or an element. -/
theorem portRead_cases (s : State) (width : Nat) (o : Offset) :
    (reach width o = none ∧ s.portRead width o = s.respond .busError) ∨
    (∃ r, reach width o = some (.reg r) ∧ s.portRead width o = s.respond (.value (s.readReg r))) ∨
    (∃ b i, reach width o = some (.elem b i) ∧ s.busy = true ∧ s.portRead width o
      = State.respond { s with draws := s.draws + 1 } (.value (Config.freeWord s.draws))) ∨
    (∃ b i, reach width o = some (.elem b i) ∧ s.busy = false ∧
      s.portRead width o = s.respond (.value (readElem s.mem b i))) := by
  simp only [State.portRead]
  rcases reach width o with _ | (r | ⟨b, i⟩)
  · simp
  · simp
  · cases h : s.busy <;> simp

/-- A write answers a bus error, is dropped, or is performed. -/
theorem portWrite_cases (s : State) (width : Nat) (o : Offset) (v : Word) :
    (reach width o = none ∧ s.portWrite width o v = s.respond .busError) ∨
    (∃ l, reach width o = some l ∧ s.busy = true ∧
      s.portWrite width o v = s.dropWrite.respond .ok) ∨
    (∃ l, reach width o = some l ∧ s.busy = false ∧
      s.portWrite width o v = (s.writeLocation l v).respond .ok) := by
  simp only [State.portWrite]
  rcases reach width o with _ | l
  · simp
  · cases h : s.busy <;> simp

/-- An offset in a buffer's range is inside one of its elements. -/
theorem index_lt_depth {b : Buffer} {o : Nat} (h : inBuffer b o = true) :
    (o - bufferBase b) / 8 < bufferDepth b := by
  have h' : bufferBase b ≤ o ∧ o < bufferBase b + 8 * bufferDepth b := of_decide_eq_true h
  omega

/-- A location in a buffer is one of its elements. -/
theorem locate_elem {o : Nat} {b : Buffer} {i : Nat} (h : locate o = some (.elem b i)) :
    i < bufferDepth b := by
  simp only [locate] at h
  split at h
  · rename_i hb; cases h; exact index_lt_depth hb
  · split at h
    · rename_i hb; cases h; exact index_lt_depth hb
    · split at h
      · rename_i hb; cases h; exact index_lt_depth hb
      · cases hr : registerAt o <;> simp [hr] at h

theorem reach_elem {width : Nat} {o : Offset} {b : Buffer} {i : Nat} (h : reach width o = some (.elem b i)) :
    i < bufferDepth b := by
  simp only [reach] at h
  split at h
  · exact locate_elem h
  · cases h

/-! ### Reset -/

/-- An abandoned command leaves nothing changed, or the points, or the taps of its active range
unspecified. -/
theorem abandon_cases (s : State) :
    ((s.busy = false ∨ s.activeRange = .nothing) ∧ s.abandon = s) ∨
    (∃ n, s.busy = true ∧ s.activeRange = .points n ∧ s.abandon = (s.havoc .re n).havoc .im n) ∨
    (∃ n, s.busy = true ∧ s.activeRange = .taps n ∧ s.abandon = s.havoc .tap n) := by
  simp only [State.abandon]
  cases s.busy with
  | false => simp
  | true => cases h : s.activeRange <;> simp

end Sys2Proof.Machine
end

