-- ==== Sys2Proof/Laws/Transform.lean ====
section
/-! SUPPORT. The laws of the transform algorithm: every phase keeps the number of points, and what one swap
and one butterfly do to each place. -/

namespace Sys2Proof.Machine

variable {α : Type}

/-- An in-place loop whose body keeps the length keeps the length. -/
theorem foldl_length {β γ : Type} (f : List β → γ → List β) (hf : ∀ x c, (f x c).length = x.length)
    (l : List γ) (x : List β) : (l.foldl f x).length = x.length := by
  induction l generalizing x with
  | nil => rfl
  | cons c l ih => rw [List.foldl_cons, ih, hf]

/-! ### Bit reversal -/

theorem bitrev_lt (p i : Nat) : bitrev p i < 2 ^ p := by
  induction p generalizing i with
  | zero => simp [bitrev]
  | succ p ih =>
    have := ih (i / 2)
    have h2 : i % 2 < 2 := Nat.mod_lt _ (by omega)
    have : i % 2 * 2 ^ p ≤ 1 * 2 ^ p := Nat.mul_le_mul_right _ (by omega)
    rw [bitrev, Nat.pow_succ]
    omega

@[simp] theorem swapAt_length {β : Type} (x : List β) (i j : Nat) : (swapAt x i j).length = x.length := by
  simp only [swapAt]
  split <;> simp

/-- A swap inside the list: each of the two places gets the other's element, the rest stay. -/
theorem swapAt_getElem? {β : Type} (x : List β) {i j : Nat} (hi : i < x.length) (hj : j < x.length)
    (k : Nat) : (swapAt x i j)[k]? = if k = j then x[i]? else if k = i then x[j]? else x[k]? := by
  simp only [swapAt, List.getElem?_eq_getElem hi, List.getElem?_eq_getElem hj, List.getElem?_set,
    List.length_set]
  grind

@[simp] theorem permuteAt_length {β : Type} (p : Nat) (x : List β) (i : Nat) :
    (permuteAt p x i).length = x.length := by
  simp only [permuteAt]
  split <;> simp

@[simp] theorem permute_length {β : Type} (p N : Nat) (x : List β) :
    (permute p N x).length = x.length :=
  foldl_length _ (permuteAt_length p) _ _

/-! ### Stages -/

@[simp] theorem butterfly_length (A : Arith α) (sgn : α) (s start : Nat) (x : List (α × α)) (k : Nat) :
    (butterfly A sgn s start x k).length = x.length := by
  simp only [butterfly]
  split <;> simp

/-- A butterfly inside the list: the two places `a` and `b` get the sum and the difference, the rest stay. -/
theorem butterfly_getElem? (A : Arith α) (sgn : α) {s start k : Nat} {x : List (α × α)} {u v : α × α}
    (hs : 2 ≤ s) (hu : x[start + k]? = some u) (hv : x[start + k + s / 2]? = some v) (j : Nat) :
    (butterfly A sgn s start x k)[j]?
      = if j = start + k then some (cadd A u (cmul A v (twiddle A sgn k s)))
        else if j = start + k + s / 2 then some (csub A u (cmul A v (twiddle A sgn k s)))
        else x[j]? := by
  have ha := (List.getElem?_eq_some_iff.mp hu).1
  have hb := (List.getElem?_eq_some_iff.mp hv).1
  have hne : start + k ≠ start + k + s / 2 := by omega
  simp only [butterfly, hu, hv, List.getElem?_set, List.length_set]
  grind

@[simp] theorem blockPass_length (A : Arith α) (sgn : α) (s : Nat) (x : List (α × α)) (start : Nat) :
    (blockPass A sgn s x start).length = x.length :=
  foldl_length _ (butterfly_length A sgn s start) _ _

@[simp] theorem stage_length (A : Arith α) (sgn : α) (N s : Nat) (x : List (α × α)) :
    (stage A sgn N s x).length = x.length :=
  foldl_length _ (fun _ _ => blockPass_length A sgn s _ _) _ _

@[simp] theorem stages_length (A : Arith α) (sgn : α) (N p : Nat) (x : List (α × α)) :
    (stages A sgn N p x).length = x.length :=
  foldl_length _ (fun _ _ => stage_length A sgn N _ _) _ _

@[simp] theorem transform_length (A : Arith α) (sgn : α) (N : Nat) (x : List (α × α)) :
    (transform A sgn N x).length = x.length := by
  simp [transform]

@[simp] theorem inverseScale_length (A : Arith α) (N : Nat) (x : List (α × α)) :
    (inverseScale A N x).length = x.length := by
  simp [inverseScale]

@[simp] theorem forwardTransform_length (A : Arith α) (N : Nat) (x : List (α × α)) :
    (forwardTransform A N x).length = x.length := by
  simp [forwardTransform]

@[simp] theorem inverseTransform_length (A : Arith α) (N : Nat) (x : List (α × α)) :
    (inverseTransform A N x).length = x.length := by
  simp [inverseTransform]

/-! ### The length check -/

/-- A length that passes the check is at least 1 and at most the depth of the buffers. -/
theorem goodLength_bounds {N : Nat} (h : badLength N = false) : 0 < N ∧ N ≤ Config.fftMaxLen := by
  simp only [badLength, decide_eq_false_iff_not, not_or, not_lt] at h
  omega

end Sys2Proof.Machine
end

