-- ==== Sys2Proof/Machine/Script.lean ====
section
/-! DEFINITION. The host-script statements (30_encoding R94, R95), as the host actions they stand for, and
the scripts that realise the source's calls (R96). The engine knows nothing of them: they only fill the
host's side, `State.script`. -/

namespace Sys2Proof.Machine

/-- A statement of a host script (30_encoding R94, R95). -/
inductive Statement where
  /-- `WR loc, value` -/
  | wr (l : Location) (v : Word)
  /-- `RD loc` -/
  | rd (l : Location)
  /-- A command mnemonic with its modifiers. -/
  | issue (i : Instr)
  /-- `WAIT`, whose first `polls` reads happen to find `BUSY = 1`: the number is not specified. -/
  | wait (polls : Nat)
  /-- `ACK` -/
  | ack
  /-- `CLROVR` -/
  | clrOvr
  /-- `LOAD buf, [v0, v1, …]` -/
  | load (b : Buffer) (vs : List Word)
  /-- `DUMP buf, n` -/
  | dump (b : Buffer) (n : Nat)
  deriving DecidableEq, Repr

/-- `offset(loc)` (30_encoding R94; 20_memory R61, R62). -/
def Location.offset : Location → Offset
  | .reg r => BitVec.ofNat 25 (registerOffset r)
  | .elem b i => BitVec.ofNat 25 (elemOffset b i)

/-- `f64(p/q)`: the pattern of the binary64 value nearest to a decimal number (30_encoding R94). -/
def f64 (neg : Bool) (p q : Nat) : Word :=
  (roundF neg (p * oneUnits) q).toWord 0

/-- `MemWrite(offset(loc), 8, v)`. -/
def writeAction (l : Location) (v : Word) : HostAction :=
  .write 8 l.offset v

/-- `MemRead(offset(loc), 8)`. -/
def readAction (l : Location) : HostAction :=
  .read 8 l.offset

/-- `WR buf[i], v0`; `WR buf[i+1], v1`; … -/
def loadActions (b : Buffer) : (i : Nat) → List Word → List HostAction
  | _, [] => []
  | i, v :: vs => writeAction (.elem b i) v :: loadActions b (i + 1) vs

/-- An action that may fall before a busy engine's execute step. -/
def racing (a : HostAction) : HostTurn :=
  { engineFirst := false, action := a }

/-- The host actions a statement stands for. Only the last read of `WAIT` lets a busy engine go first: it
finds `BUSY = 0`. -/
def Statement.expand : Statement → List HostTurn
  | .wr l v => [racing (writeAction l v)]
  | .rd l => [racing (readAction l)]
  | .issue i => [racing (writeAction (.reg .cmd) (encode i))]
  | .wait polls =>
    List.replicate polls (racing (readAction (.reg .status)))
      ++ [{ engineFirst := true, action := readAction (.reg .status) }]
  | .ack => [racing (writeAction (.reg .status) 0x2)]
  | .clrOvr => [racing (writeAction (.reg .status) 0x8)]
  | .load b vs => (loadActions b 0 vs).map racing
  | .dump b n => (List.range n).map fun i => racing (readAction (.elem b i))

/-- The host's side of a whole script. -/
def expandScript (p : List Statement) : List HostTurn :=
  (p.map Statement.expand).flatten

/-! ### The source's calls (30_encoding R96), up to the test of `STATUS` -/

/-- `fft(re, im)`, and `fft(re, im, true)` when `inverse`. -/
def fftCall (inverse : Bool) (re im : List Word) (polls : Nat) : List Statement :=
  [.load .re re, .load .im im, .wr (.reg .len) (BitVec.ofNat 64 re.length),
    .issue (if inverse then .ifft else .fft), .wait polls]

/-- What the host reads when the call did not fail. -/
def fftResult (n : Nat) : List Statement :=
  [.dump .re n, .dump .im n]

/-- `nextPowerOfTwo(n)`. -/
def nextPowerOfTwoCall (n : Word) (polls : Nat) : List Statement :=
  [.wr (.reg .npotIn) n, .issue .npot, .wait polls, .rd (.reg .npotOut)]

/-- `design({shape, sampleRate, taps, f1, f2?, window, kaiserBeta?, normalize?})`: an absent optional operand
is not written and its modifier bit is 0. -/
def designCall (shape : Nat) (sampleRate taps f1 : Word) (f2 : Option Word) (win : Window)
    (kaiserBeta : Option Word) (norm : Bool) (polls : Nat) : List Statement :=
  [.wr (.reg .srate) sampleRate, .wr (.reg .taps) taps, .wr (.reg .f1) f1]
    ++ (f2.map (.wr (.reg .f2))).toList ++ (kaiserBeta.map (.wr (.reg .kbeta))).toList
    ++ [.issue (decodeShape shape win norm f2.isSome kaiserBeta.isSome), .wait polls]

/-- What the host reads when the design did not fail. -/
def designResult (n : Nat) : List Statement :=
  [.dump .tap n]

end Sys2Proof.Machine
end

