-- ==== Sys2Proof/Tests/Slice0.lean ====
section
/-! SUPPORT. The model's own tests: the checks of WellFormed on ill-formed terms, words written out from the
encoding tables, vectors of the spec's own test chapter, and a witness for each obligation that has
hypotheses. Expected values come from the spec (95_test_vectors or its rules), not from the model. -/

namespace Sys2Proof.Tests

open Sys2Proof.Machine

/-! ### Helpers -/

/-- The state with words stored from element 0 of a buffer on. -/
def load (s : State) (b : Buffer) (ws : List Word) : State :=
  { s with mem := storeElems s.mem b 0 ws }

/-- The state the next step makes, after the word `w` was accepted. -/
def ran (s : State) (w : Nat) : Option State :=
  match step (s.withFetchWord 64 w) with
  | .next t => some t
  | _ => none

/-- `STATUS` and the first `n` elements of a buffer after the word `w` ran. -/
def outcome (s : State) (w : Nat) (b : Buffer) (n : Nat) : Option (Word × List Word) :=
  (ran s w).map fun t => (t.statusWord, loadElems t.mem b n)

/-- `k` steps of the machine. -/
def after (k : Nat) (s : State) : Option State :=
  match Host.Core.run Sys2Proof.core k s with
  | .next t => some t
  | _ => none

/-- Two points: `RE = [a, b]`, `IM = [c, d]`, `LEN = 2`. -/
def twoPoints (a b c d : Word) : State :=
  load (load { State.reset with len := 2 } .re [a, b]) .im [c, d]

/-- A design state: `SRATE = 48000.0` and the tap count, `F1`, `F2` given. -/
def design (taps : IntWord) (f1 f2 : Word) : State :=
  { State.reset with srate := 0x40E7700000000000, taps := taps, f1 := f1, f2 := f2 }

/-- Busy with a word. -/
def busyWith (w : Word) : State :=
  State.reset.accept w

/-! ### WellFormed: an ill-formed term for each check -/

theorem test_wf_refuses_bit7 : CommandFields.wellFormed { Instr.fft.fields with bit7 := true } = false := by
  decide
theorem test_wf_refuses_bit11 : CommandFields.wellFormed { Instr.npot.fields with bit11 := true } = false := by
  decide
theorem test_wf_refuses_high :
    CommandFields.wellFormed { (Instr.firlp .rect false false false).fields with high := 1 } = false := by
  decide
theorem test_wf_refuses_opcode0 : CommandFields.wellFormed { Instr.fft.fields with opc := 0 } = false := by
  decide
theorem test_wf_refuses_opcode4 : CommandFields.wellFormed { Instr.fft.fields with opc := 4 } = false := by
  decide
theorem test_wf_refuses_shape_on_ifft :
    CommandFields.wellFormed { Instr.ifft.fields with shape := 1 } = false := by
  decide
theorem test_wf_refuses_win_on_npot : CommandFields.wellFormed { Instr.npot.fields with win := 1 } = false := by
  decide
theorem test_wf_refuses_norm_on_fft :
    CommandFields.wellFormed { Instr.fft.fields with norm := true } = false := by
  decide
theorem test_wf_refuses_f2v_on_fft :
    CommandFields.wellFormed { Instr.fft.fields with f2v := true } = false := by
  decide
theorem test_wf_refuses_kbv_on_npot :
    CommandFields.wellFormed { Instr.npot.fields with kbv := true } = false := by
  decide
theorem test_wf_refuses_inv_on_npot :
    CommandFields.wellFormed { Instr.npot.fields with inv := true } = false := by
  decide
theorem test_wf_refuses_inv_on_design :
    CommandFields.wellFormed { (Instr.firbs .hann true true true).fields with inv := true } = false := by
  decide
theorem test_wf_refuses_window5 :
    CommandFields.wellFormed { (Instr.firhp .kaiser true true true).fields with win := 5 } = false := by
  decide

/-! ### Decoding: words written out from 30_encoding R82 to R87; illegal words of 95_test_vectors 2.5 -/

/-- R82: `OPC = 0001`, `INV = 0`. -/
theorem test_decode_fft : decode 0b00000001 = .command .fft := by decide
/-- R82: `OPC = 0001`, `INV = 1`. -/
theorem test_decode_ifft : decode 0b00010001 = .command .ifft := by decide
/-- R83: `OPC = 0010`. -/
theorem test_decode_npot : decode 0b00000010 = .command .npot := by decide
/-- R84: `KBV F2V NORM = 001`, `WIN = 010`, `SHAPE = 00`, `OPC = 0011`. -/
theorem test_decode_firlp : decode 0b0001001000000011 = .command (.firlp .hamming true false false) := by decide
/-- R84: `KBV F2V NORM = 000`, `WIN = 001`, `SHAPE = 01`. -/
theorem test_decode_firhp : decode 0b0000000100100011 = .command (.firhp .hann false false false) := by decide
/-- R84: `KBV F2V NORM = 010`, `WIN = 011`, `SHAPE = 10`. -/
theorem test_decode_firbp : decode 0b0010001101000011 = .command (.firbp .blackman false true false) := by decide
/-- R84: `KBV F2V NORM = 111`, `WIN = 100`, `SHAPE = 11`. -/
theorem test_decode_firbs : decode 0b0111010001100011 = .command (.firbs .kaiser true true true) := by decide
theorem test_decode_rect : [0x3, 0x23, 0x43, 0x63].map decode
    = [.command (.firlp .rect false false false), .command (.firhp .rect false false false),
       .command (.firbp .rect false false false), .command (.firbs .rect false false false)] := by decide
theorem test_decode_listed : [0x3263, 0x7403].map decode
    = [.command (.firbs .hamming true true false), .command (.firlp .kaiser true true true)] := by decide
theorem test_decode_illegal :
    ∀ w ∈ ([0x0, 0x4, 0xF, 0x21, 0x101, 0x1001, 0x31, 0x12, 0x102, 0x13, 0x503, 0x703, 0x83, 0x803, 0x8003,
      0x10003, 0x8000000000000001, 0xFFFFFFFFFFFFFFFF] : List Word), ∃ why, decode w = .illegal why := by
  intro w hw
  fin_cases hw <;> exact ⟨_, rfl⟩
theorem test_decode_table_word : decodeTableWord 64 0x2043 = some (.firbp .rect false true false) := by decide

/-! ### The commands, one step each (95_test_vectors 2.1 to 2.4) -/

/-- T2. -/
theorem test_fft_two_points :
    let s := twoPoints 0x3FF0000000000000 0x4000000000000000 0x4008000000000000 0x4014000000000000
    outcome s 0x1 .re 2 = some (0x2, [0x4008000000000000, 0xBFF0000000000000]) ∧
    outcome s 0x1 .im 2 = some (0x2, [0x4020000000000000, 0xC000000000000000]) := by decide +kernel
/-- T12, `LEN = 6`: only `STATUS` changes. -/
theorem test_fft_bad_length :
    (ran { State.reset with len := 6 } 0x1).map (fun t => (t.statusWord, t.mem)) = some (0x16, []) := by
  decide +kernel
/-- T3. -/
theorem test_ifft_two_points :
    let s := twoPoints 0x3FF0000000000000 0x4000000000000000 0x4008000000000000 0x4014000000000000
    outcome s 0x11 .re 2 = some (0x2, [0x3FF8000000000000, 0xBFE0000000000000]) ∧
    outcome s 0x11 .im 2 = some (0x2, [0x4010000000000000, 0xBFF0000000000000]) := by decide +kernel
/-- T11: the smallest subnormal divided by 2 is a tie and goes to zero. -/
theorem test_ifft_underflow : outcome (twoPoints 1 0 0 0) 0x11 .re 2 = some (0x2, [0, 0]) := by decide +kernel
/-- T13 with the array's third element: outside the active range. -/
theorem test_fft_range :
    outcome (load (twoPoints 0x3FF0000000000000 0x4000000000000000 0 0) .re
      [0x3FF0000000000000, 0x4000000000000000, 0x4058C00000000000]) 0x1 .re 3
      = some (0x2, [0x4008000000000000, 0xBFF0000000000000, 0x4058C00000000000]) := by decide +kernel
/-- The table of section 2.2. -/
theorem test_npot_table :
    ([0, 1, 2, 3, 4, 5, 7, 8, 9, 1000, 1025, 2048, 262143, 1048577, 2147483647, 2147483648, 2147483649,
      4294967295] : List IntWord).map nextPowerOfTwo
      = [0, 1, 2, 4, 4, 8, 8, 8, 16, 1024, 2048, 2048, 262144, 2097152, 2147483648, 2147483648, 0, 0] := by
  decide
theorem test_npot_step :
    (ran { State.reset with npotIn := 1000 } 0x2).map (fun t => (t.statusWord, t.npotOut, t.len))
      = some (0x2, 1024, 0) := by decide +kernel
/-- F15 with `NORM`: `0.5` normalised to `1.0`. -/
theorem test_firlp_one_tap :
    outcome (design 1 0x40C7700000000000 0) 0x1103 .tap 1 = some (0x2, [0x3FF0000000000000]) := by
  decide +kernel
/-- F18. -/
theorem test_firlp_null : outcome (design 3 0 0) 0x1003 .tap 3 = some (0x102, [0, 0, 0]) := by decide +kernel
/-- F18. -/
theorem test_firhp_impulse :
    outcome (design 3 0 0) 0x23 .tap 3 = some (0x2, [0, 0x3FF0000000000000, 0]) := by decide +kernel
/-- F15 without `NORM`: `1 - 0.75`. -/
theorem test_firhp_one_tap :
    outcome (design 1 0x40D1940000000000 0) 0x23 .tap 1 = some (0x2, [0x3FD0000000000000]) := by decide +kernel
/-- F17 with one tap (five would need `SIN`). -/
theorem test_firbp_equal_cutoffs :
    outcome (design 1 0x40C7700000000000 0x40C7700000000000) 0x3043 .tap 1 = some (0x102, [0]) := by
  decide +kernel
/-- F20: the sample rate before `F2`, `F2` before the tap count. -/
theorem test_firbp_check_order :
    (ran { design 300000 0 0 with srate := 0 } 0x43).map State.statusWord = some 0x26 ∧
    (ran (design 300000 0 0) 0x43).map State.statusWord = some 0x36 := by decide +kernel
/-- F15: `1 - (0.75 - 0.25)`; the Kaiser denominator is computed and discarded. -/
theorem test_firbs_one_tap :
    outcome { design 1 0x40B7700000000000 0x40D1940000000000 with kbeta := 0x4014000000000000 } 0x6463 .tap 1
      = some (0x2, [0x3FE0000000000000]) := by decide +kernel
/-- F20. -/
theorem test_firbs_missing : (ran (design 5 0 0) 0x463).map State.statusWord = some 0x36 := by decide +kernel
/-- F20: the patterns of `SRATE` that are refused, and `5e-324`, which is not. -/
theorem test_goodRate :
    ([0, 0x8000000000000000, 0xBFF0000000000000, 0x7FF0000000000000, 0x7FF8000000000000, 1] : List Word).map
      (fun w => State.goodRate { State.reset with srate := w }) = [false, false, false, false, false, true] := by
  decide +kernel
/-- F16. -/
theorem test_no_taps : (ran (design 0 0 0) 0x1003).map (fun t => (t.statusWord, t.mem)) = some (0x102, []) := by
  decide +kernel
/-- B1. -/
theorem test_bessel :
    ([0, 0x3FF0000000000000, 0x4014000000000000, 0xC014000000000000] : List Word).map
      (fun x => (besselI0 binary64 (F.ofWord x)).toWord 0)
      = [0x3FF0000000000000, 0x3FF441CE4B386C2C, 0x403B3D683D659C5B, 0x403B3D683D659C5B] := by decide +kernel
/-- B2, `KAISER`, β = 5.0, the first two of five. -/
theorem test_kaiser_window :
    let five := F.ofWord 0x4014000000000000
    (kaiserWindow binary64 five (besselI0 binary64 five) 2 5).toWord 0 = 0x3FF0000000000000 := by decide +kernel
/-- 2.5: an illegal word runs to `STATUS = 0x46`, `LASTCMD` the word. -/
theorem test_illegal_word : (ran State.reset 0x503).map (fun t => (t.statusWord, t.lastcmd)) = some (0x46, 0x503) := by
  decide +kernel

/-- P5's first two lines and the next command (R178): the error of `FFT` is gone from `STATUS` once `NPOT` was
accepted and ran, and stays in the sticky bit, through a reset too. -/
theorem test_sticky_error :
    ((ran { State.reset with len := 6 } 0x1).bind fun s => ran s 0x2).map
      (fun t => (t.statusWord, t.everFailed, t.assertReset.everFailed)) = some (0x2, true, true) := by
  decide +kernel

/-! ### The port (95_test_vectors 2.6) -/

/-- H1 to H5. -/
theorem test_reset_reads : ([0x000, 0x068, 0x010, 0x040, 0x008] : List Offset).map
    (fun o => (State.reset.hostStep (.read 8 o)).answer)
    = [some (.value 0x152324654), some (.value 0x0003FFFF00100000), some (.value 0), some (.value 0),
       some (.value 0)] := by decide
/-- H6 to H9. -/
theorem test_bus_errors :
    [State.hostStep State.reset (.read 4 0x010), State.reset.hostStep (.write 8 0x024 5),
      State.reset.hostStep (.read 8 0x070), State.reset.hostStep (.read 8 0x01A00000)]
    = List.replicate 4 { State.reset with answer := some .busError } := by decide
/-- H10. -/
theorem test_pattern_kept :
    ((State.reset.hostStep (.write 8 0x01800000 0x7FF800000000BEEF)).hostStep (.read 8 0x01800000)).answer
      = some (.value 0x7FF800000000BEEF) := by decide +kernel
/-- H11, H12. -/
theorem test_reserved_bits :
    ((State.reset.hostStep (.write 8 0x020 0xFFFFFFFFFFFFFFFF)).hostStep (.read 8 0x020)).answer
      = some (.value 0xFFFFFFFF) ∧
    ((State.reset.hostStep (.write 8 0x018 0xFFFFFFFFFFFFFFFF)).hostStep (.read 8 0x018)).answer
      = some (.value 1) := by decide
/-- H14, H15, H18. -/
theorem test_dropped_writes :
    ((busyWith 2).hostStep (.write 8 0x020 7)).statusWord = 0x9 ∧
    ((busyWith 2).hostStep (.write 8 0x008 1)).lastcmd = 2 ∧
    ((busyWith 2).hostStep (.write 8 0x024 7)).ovr = false := by decide
/-- H19, H20. -/
theorem test_write_one_to_clear :
    (State.hostStep { State.reset with done := true, ovr := true } (.write 8 0x010 2)).statusWord = 0x8 ∧
    (State.hostStep { State.reset with done := true, err := true, errcode := .invalidInput }
      (.write 8 0x010 0xFFFFFFFFFFFFFFFF)).statusWord = 0x14 := by decide
/-- H21, H22. -/
theorem test_irq :
    (State.hostStep { State.reset with done := true } (.write 8 0x018 1)).irq = true ∧
    (State.hostStep { State.reset with done := true, ie := true } (.write 8 0x010 2)).irq = false := by decide
/-- P6, the racing write: outcome A when the host goes first, outcome B when the engine does. -/
theorem test_race :
    (after 2 { busyWith 2 with npotIn := 1000, script := [⟨false, .write 8 0x020 16⟩] }).map
      (fun t => (t.statusWord, t.npotOut, t.len)) = some (0xA, 1024, 0) ∧
    (after 2 { busyWith 2 with npotIn := 1000, script := [⟨true, .write 8 0x020 16⟩] }).map
      (fun t => (t.statusWord, t.npotOut, t.len)) = some (0x2, 1024, 16) := by decide +kernel

/-- The port operations of P3, and of P2's first lines. -/
theorem test_script :
    (expandScript (designCall 0 0x40E7700000000000 5 0x40C7700000000000 none .hamming none true 0)).map
      HostTurn.action
      = [.write 8 0x040 0x40E7700000000000, .write 8 0x038 5, .write 8 0x048 0x40C7700000000000,
         .write 8 0x008 0x1203, .read 8 0x010] ∧
    (expandScript (nextPowerOfTwoCall 3 1)).map HostTurn.action
      = [.write 8 0x028 3, .write 8 0x008 0x2, .read 8 0x010, .read 8 0x010, .read 8 0x030] ∧
    (expandScript [.load .im [7, 8]]).map HostTurn.action = [.write 8 0x1000000 7, .write 8 0x1000008 8] := by
  decide
/-- The literals of P3 and P5, and 0.1. -/
theorem test_f64 : [f64 false 48000 1, f64 false 3 2, f64 true 1 1, f64 false 1 10]
    = [0x40E7700000000000, 0x3FF8000000000000, 0xBFF0000000000000, 0x3FB999999999999A] := by decide +kernel

end Sys2Proof.Tests
end

