-- ==== Sys2Proof/Tests/Witness.lean ====
section
/-! SUPPORT. For each obligation with hypotheses, a concrete state and operands that meet all of them
together; where the statement has several clauses, one for each, at a boundary value where there is a
range. -/

namespace Sys2Proof.Tests

open Sys2Proof.Machine

/-! ### Decoding and stepping -/

theorem witness_IllegalWordsCompleteInError : ∃ why, decode (busyWith 0x503).lastcmd = .illegal why :=
  ⟨.reservedWindow, by decide⟩

theorem witness_StepRunsDecodedCommand :
    ((busyWith 0x11).busy = true ∧ (busyWith 0x11).engineGoesFirst = true ∧
      decode (busyWith 0x11).lastcmd = .command .ifft) ∧
    (decode (BitVec.ofNat 64 0x7463) = .command (.firbs .kaiser true true true) ∧ 0x7463 < 2 ^ 64) := by
  decide

/-- One state for each code: a bad length, a bad rate, too many taps, a missing `F2`, an illegal word. -/
theorem witness_ErrorCodesHaveTheirCauses :
    (∃ t, engineStep { busyWith 0x1 with len := 3 } = .next t ∧ t.errcode = .invalidInput) ∧
    (∃ t, engineStep (busyWith 0x3) = .next t ∧ t.errcode = .invalidParam) ∧
    (∃ t, engineStep ((design 262144 0 0).accept 0x3) = .next t ∧ t.errcode = .invalidParam) ∧
    (∃ t, engineStep ((design 262144 0 0).accept 0x43) = .next t ∧ t.errcode = .missingParam) ∧
    ∃ t, engineStep (busyWith 0x0) = .next t ∧ t.errcode = .illegalCmd :=
  ⟨⟨_, rfl, by decide +kernel⟩, ⟨_, rfl, by decide +kernel⟩, ⟨_, rfl, by decide +kernel⟩,
    ⟨_, rfl, by decide +kernel⟩, ⟨_, rfl, by decide +kernel⟩⟩

theorem witness_ErrorsArePrecise :
    ∃ t, engineStep (busyWith 0x63) = .next t ∧ t.err = true :=
  ⟨_, rfl, by decide +kernel⟩

/-- `NPOT` for the first two clauses, `FFT` for the last. -/
theorem witness_EngineWritesOnlyItsResults :
    (∃ t, engineStep (busyWith 0x2) = .next t ∧ decode (busyWith 0x2).lastcmd ≠ .command .fft ∧
      decode (busyWith 0x2).lastcmd ≠ .command .ifft ∧ 1048575 < 1048576 ∧
      (∀ i, decode (busyWith 0x2).lastcmd = .command i → designNeeds i = none) ∧ 262143 < 262144) ∧
    ∃ t, engineStep (busyWith 0x1) = .next t ∧ decode (busyWith 0x1).lastcmd ≠ .command .npot := by
  refine ⟨⟨_, rfl, by decide, by decide, by decide, ?_, by decide⟩, ⟨_, rfl, by decide⟩⟩
  intro i h
  have e : decode (busyWith 0x2).lastcmd = .command .npot := by decide
  rw [e] at h
  cases h
  rfl

theorem witness_EveryCommandEnds : (busyWith 0x1).busy = true := rfl

theorem witness_OnlyCmdWriteStartsCommand :
    ∃ t, step { State.reset with script := [⟨true, .write 8 0x008 0x2⟩] } = .next t ∧
      State.reset.busy = false ∧ t.busy = true :=
  ⟨_, rfl, rfl, by decide⟩

/-- A busy engine with a byte in memory, before a step that fails with a recorded code. -/
theorem witness_InvariantKeptByEveryStep :
    State.Inv { busyWith 0x43 with mem := [(0x00800000, 5), (0x019FFFFF, 7)] } ∧
    ∃ t, step { busyWith 0x43 with mem := [(0x00800000, 5), (0x019FFFFF, 7)] } = .next t ∧ t.err = true := by
  refine ⟨⟨by decide, ?_, ?_⟩, _, rfl, by decide +kernel⟩
  · simp [State.flagsConsistent, busyWith, State.accept, State.reset]
  · simp [State.recordMatchesCommand, busyWith, State.accept, State.reset]

/-! ### Transforms -/

/-- Zero, one above the largest length, a length that is no power of two, and the largest legal length. -/
theorem witness_TransformLengthCheck :
    (State.len { State.reset with len := 0 }).toNat = 0 ∧
    1048576 < (State.len { State.reset with len := 1048577 }).toNat ∧
    (State.len { State.reset with len := 3 }).toNat &&& (3 - 1) ≠ 0 ∧
    (20 ≤ 20 ∧ (State.len { State.reset with len := 1048576 }).toNat = 2 ^ 20) := by
  decide

/-- The smallest and the largest length, for both transforms. -/
theorem witness_FftTransformsActiveRange :
    (0 ≤ 20 ∧ (State.len { State.reset with len := 1 }).toNat = 2 ^ 0) ∧
    (20 ≤ 20 ∧ (State.len { State.reset with len := 1048576 }).toNat = 2 ^ 20) := by
  decide

theorem witness_IfftTransformsActiveRange :
    (0 ≤ 20 ∧ (State.len { State.reset with len := 1 }).toNat = 2 ^ 0) ∧
    (20 ≤ 20 ∧ (State.len { State.reset with len := 1048576 }).toNat = 2 ^ 20) := by
  decide

theorem witness_BitReversalPermutation :
    7 < 2 ^ 3 ∧ [10, 11, 12, 13, 14, 15, 16, 17].length = 2 ^ 3 ∧ [4].length = 1 ∧ [4, 9].length = 2 := by
  decide

theorem ne_nan {x : F} (h : isfinite x = true) (k : Option Word) : x ≠ .nan k := by
  rintro rfl
  simp [isfinite] at h

theorem witness_TransformOfOneAndTwoPoints :
    (∀ k, F.ofWord 0x7FEFFFFFFFFFFFFF ≠ .nan k) ∧ isfinite (F.ofWord 0x7FEFFFFFFFFFFFFF) = true ∧
      isfinite (F.ofWord 0x8000000000000000) = true ∧ isfinite (F.ofWord 1) = true :=
  ⟨ne_nan (by decide +kernel), by decide +kernel, by decide +kernel, by decide +kernel⟩

theorem witness_ForwardTransformIsDft :
    [((1 : ℝ), (2 : ℝ)), (3, 4), (5, 6), (7, 8)].length = 2 ^ 2 ∧ 3 < 2 ^ 2 := by
  simp

theorem witness_InverseTransformIsInverseDft :
    [((1 : ℝ), (2 : ℝ)), (3, 4), (5, 6), (7, 8)].length = 2 ^ 2 ∧ 3 < 2 ^ 2 := by
  simp

theorem witness_RoundTripIsExact : [((1 : ℝ), (2 : ℝ))].length = 2 ^ 0 := by
  simp

/-- The spectrum `[1, 2 + 3j, 5, 2 - 3j]`. -/
theorem witness_HermitianSpectrumGivesRealResponse :
    let x : List (ℝ × ℝ) := [(1, 0), (2, 3), (5, 0), (2, -3)]
    x.length = 2 ^ 2 ∧
    (∀ (k : Nat) (u v : ℝ × ℝ), 1 ≤ k → k < 2 ^ 2 → x[k]? = some u → x[2 ^ 2 - k]? = some v →
      v = (u.1, -u.2)) ∧
    (∀ u : ℝ × ℝ, x[0]? = some u → u.2 = 0) := by
  refine ⟨by simp, ?_, ?_⟩
  · intro k u v h1 h2 hu hv
    interval_cases k <;> simp at hu hv <;> subst hu <;> subst hv <;> simp
  · intro u hu
    simp at hu
    rw [← hu]

/-! ### NPOT -/

theorem witness_NpotRoundsUp :
    (1 ≤ (1 : IntWord).toNat ∧ (1 : IntWord).toNat ≤ 2 ^ 31) ∧
    (1 ≤ (0x80000000 : IntWord).toNat ∧ (0x80000000 : IntWord).toNat ≤ 2 ^ 31) := by
  decide

/-- The word just above 2^31; the other corners are values of the operand, which can hold any. -/
theorem witness_NpotCornerCases :
    (State.npotIn { State.reset with npotIn := 3 } = 3 ∧
      State.npotIn { State.reset with npotIn := 0x80000000 } = 0x80000000) ∧
    0x80000000 < (State.npotIn { State.reset with npotIn := 0x80000001 }).toNat := by
  decide

/-! ### Designs -/

/-- The smallest and the largest tap count of a good design, for the four shapes. -/
theorem witness_designs :
    ((design 0 0 0).goodRate = true ∧ (design 0 0 0).taps.toNat ≤ 262143) ∧
    ((design 262143 0 0).goodRate = true ∧ (design 262143 0 0).taps.toNat ≤ 262143) := by
  decide +kernel

theorem witness_FirlpDesignsLowpass :
    (design 262143 0 0).goodRate = true ∧ (design 262143 0 0).taps.toNat ≤ 262143 :=
  witness_designs.2

theorem witness_FirhpDesignsHighpass :
    (design 262143 0 0).goodRate = true ∧ (design 262143 0 0).taps.toNat ≤ 262143 :=
  witness_designs.2

theorem witness_FirbpDesignsBandpass :
    (design 262143 0 0).goodRate = true ∧ (design 262143 0 0).taps.toNat ≤ 262143 :=
  witness_designs.2

theorem witness_FirbsDesignsBandstop :
    (design 262143 0 0).goodRate = true ∧ (design 262143 0 0).taps.toNat ≤ 262143 :=
  witness_designs.2

theorem witness_DesignChecksInOrder :
    (designNeeds (.firlp .hann true false false) = some (false, false) ∧ State.reset.goodRate = false) ∧
    (designNeeds (.firbs .hann true false false) = some (true, false) ∧ (design 262144 0 0).goodRate = true) ∧
    (designNeeds (.firbp .hann true true false) = some (true, true) ∧ (design 262144 0 0).goodRate = true ∧
      262143 < (design 262144 0 0).taps.toNat) ∧
    ((design 262143 0 0).goodRate = true ∧ (design 262143 0 0).taps.toNat ≤ 262143) := by
  decide +kernel

theorem witness_ZeroTapsWriteNothing : (design 0 0 0).goodRate = true ∧ (design 0 0 0).taps = 0 := by
  decide +kernel

theorem witness_ImpulseOnlyAtCentre :
    (1 ≤ 1 ∧ 1 ≤ 262143 ∧ 0 < 1 ∧ 2 * 0 + 1 = 1) ∧
    (1 ≤ 262143 ∧ 262143 ≤ 262143 ∧ 262142 < 262143 ∧ 2 * 262142 + 1 ≠ 262143) := by
  decide

theorem witness_ExchangedCutoffsNegateBandpass :
    (∀ k, idealBandpass binary64 (.fin false 0) (F.ofWord 0x3FD0000000000000) (F.ofWord 0x3FE0000000000000) 0
      ≠ .nan k) ∧
    isfinite (lowpass binary64 (.fin false 0) (F.ofWord 0x3FD0000000000000) 0) = true :=
  ⟨ne_nan (by decide +kernel), by decide +kernel⟩

/-- The last of five taps; and a design of one tap, 0.5, whose gain at 0 Hz is 0.5, so that it is
normalised. -/
theorem witness_DesignsAreSymmetric :
    (4 < 5 ∧ ∃ ideal : Nat → ℝ, ideal = idealLowpass exactArith (centre exactArith 5) (1 / 4)) ∧
    (0 < 1 ∧ ∃ scaled, normalise exactArith 0 1 (windowedTaps exactArith .hann 5 1
      (idealLowpass exactArith (centre exactArith 1) (1 / 4))) = some scaled) := by
  refine ⟨⟨by decide, _, rfl⟩, by decide, _, if_pos ?_⟩
  simp [referenceGain, responseSums, windowedTaps, windowValue, idealLowpass, lowpass, sinc, centre, cabs,
    exactArith, exactConst]
  norm_num

/-- Two states that differ in `LEN`, `F2` and `KBETA`. -/
theorem witness_DesignDependsOnItsOperands :
    let s := design 3 0 0
    let s' := { design 3 0 7 with len := 9, kbeta := 1 }
    s.taps = s'.taps ∧ s.srate = s'.srate ∧ s.f1 = s'.f1 ∧ s.draws = s'.draws ∧
      (Window.hann = .kaiser → true = true → s.kbeta = s'.kbeta) ∧
      (∃ t, exec (.firlp .hann true false true) s = .next t) ∧
      ∃ t, exec (.firlp .hann true false true) s' = .next t :=
  ⟨rfl, rfl, rfl, rfl, nofun, ⟨_, rfl⟩, ⟨_, rfl⟩⟩

/-- Two states that differ in `TAPS` and a point outside the active range. -/
theorem witness_TransformDependsOnItsOperands :
    let s := load { State.reset with len := 1 } .re [1, 2]
    let s' := load { State.reset with len := 1, taps := 9 } .re [1, 3]
    s.len = s'.len ∧ s.draws = s'.draws ∧
      (∀ n, n < s.len.toNat → readElem s.mem .re n = readElem s'.mem .re n ∧
        readElem s.mem .im n = readElem s'.mem .im n) ∧
      (∃ t, exec .fft s = .next t) ∧ ∃ t, exec .fft s' = .next t := by
  refine ⟨rfl, rfl, fun n hn => ?_, ⟨_, rfl⟩, ⟨_, rfl⟩⟩
  have h0 : n = 0 := by
    have : n < 1 := hn
    omega
  subst h0
  exact ⟨by decide +kernel, rfl⟩

/-! ### Arithmetic -/

/-- Three units of 1.0: the pattern of 3.0. -/
theorem three_units {e : Nat} (he : e = 1074) : F.ofWord 0x4008000000000000 = .fin false (3 * 2 ^ e) := by
  subst he
  decide +kernel

theorem realOf_units {e : Nat} (he : e = 1074) (k : Nat) : realOf (.fin false (k * 2 ^ e)) = k := by
  have h : (2 : ℝ) ^ e ≠ 0 := by positivity
  unfold realOf
  rw [← he]
  push_cast
  simp only [one_mul]
  exact mul_div_cancel_right₀ _ h

theorem real_of_three : realOf (F.ofWord 0x4008000000000000) = ((3 : Nat) : ℝ) := by
  obtain ⟨e, he⟩ : ∃ e : Nat, e = 1074 := ⟨_, rfl⟩
  rw [three_units he, realOf_units he]

theorem witness_ArithmeticCorrectlyRounded :
    isfinite (F.ofWord 1) = true ∧ isfinite (F.ofWord 0x4008000000000000) = true ∧
      realOf (F.ofWord 0x4008000000000000) ≠ 0 := by
  refine ⟨by decide +kernel, by decide +kernel, ?_⟩
  rw [real_of_three]
  norm_num

theorem witness_SquareRootCorrectlyRounded :
    isfinite (F.ofWord 0x4008000000000000) = true ∧ 0 ≤ realOf (F.ofWord 0x4008000000000000) := by
  refine ⟨by decide +kernel, ?_⟩
  rw [real_of_three]
  norm_num

theorem witness_ConstantsAreNearest : Const.pi ≠ .twoPi := by
  decide

theorem witness_SineAndCosineContract : isfinite (.inf true) = false ∧ isfinite .anyNan = false := by
  decide

/-! ### Port and interrupt -/

theorem witness_AcceptanceLatchesTheWord : State.reset.busy = false := rfl

theorem witness_BusyWriteIsDropped :
    (busyWith 0x2).busy = true ∧ reach 8 0x008 = some (.reg .cmd) ∧
      reach 8 0x019FFFF8 = some (.elem .tap 262143) := by
  decide

theorem witness_BusyWriteDoesNotDisturbCommand :
    (busyWith 0x2).busy = true ∧ ∃ t, engineStep (busyWith 0x2) = .next t :=
  ⟨rfl, _, rfl⟩

/-- Mapped accesses at both ends of what is mapped; a narrow access, a misaligned one, both ends of the hole, both ends of what lies past `TAP`. -/
theorem witness_BusErrorChangesNothing :
    reach 8 0x068 = some (.reg .limits) ∧ reach 8 0x00800000 = some (.elem .re 0) ∧
      reach 8 0x019FFFF8 = some (.elem .tap 262143) ∧
      reach 4 0x010 = none ∧ reach 8 0x01C = none ∧ reach 8 0x070 = none ∧ reach 8 0x007FFFF8 = none ∧
      reach 8 0x01A00000 = none ∧ reach 8 0x01FFFFF8 = none := by
  decide

theorem witness_AddressMap : 1048575 < 1048576 ∧ 262143 < 262144 := by
  decide

theorem witness_BufferWriteReadsBack :
    State.reset.busy = false ∧ reach 8 0x00FFFFF8 = some (.elem .re 1048575) ∧
      reach 8 0x01000000 = some (.elem .im 0) ∧ reach 8 0x019FFFF8 = some (.elem .tap 262143) := by
  decide

theorem witness_ElementsAreLittleEndian : 0 < 8 ∧ 7 < 8 := by
  decide

theorem witness_ReadsHaveNoSideEffect :
    State.reset.busy = false ∧ (∀ b i, reach 8 0x010 ≠ some (.elem b i)) ∧
      ((busyWith 0x2).busy = true ∧ reach 8 0x00800000 = some (.elem .re 0)) := by
  refine ⟨rfl, fun b i h => ?_, by decide⟩
  have e : reach 8 0x010 = some (.reg .status) := by decide
  rw [e] at h
  cases h

theorem witness_InterruptRisesAndFalls :
    (State.reset.busy = false ∧ (2 : Word).getLsbD 1 = true ∧ (2 : Word).getLsbD 0 = false) ∧
    ∃ t, engineStep { busyWith 0x2 with ie := true } = .next t :=
  ⟨by decide, _, rfl⟩

theorem witness_RegisterWriteReadsBack : State.reset.busy = false := rfl

/-! ### The sticky error bit -/

/-- One step that runs `NPOT`, with the bit clear before and after. -/
theorem witness_StickyErrorRecord :
    (∃ t, step (busyWith 0x2) = .next t) ∧ ((busyWith 0x2).err = true → (busyWith 0x2).everFailed = true) ∧
    ∃ t : State, Host.Core.run Sys2Proof.core 1 (busyWith 0x2) = .next t ∧ t.everFailed = false ∧ 1 ≤ 1 :=
  ⟨⟨_, rfl⟩, by decide, _, rfl, rfl, Nat.le_refl 1⟩

/-! ### The design formulas -/

/-- The centre of five taps, and its neighbour. -/
theorem witness_LowpassInRealNumbers :
    1 ≤ 5 ∧ ((2 : Nat) : ℝ) = 2 ∧ ((1 : Nat) : ℝ) ≠ 2 := by
  norm_num

/-- The last tap of the shortest and of the longest window with an angle; a gain that exceeds the bound, of
the one tap 1, and one that does not, of no tap. -/
theorem witness_WindowsInRealNumbers :
    ((2 ≤ 2 ∧ 1 < 2) ∧ (2 ≤ 262143 ∧ 262142 < 262143)) ∧
    1 / 1000000000000 < ‖((List.range 1).map fun n : Nat => (([1].getD n 0 : ℝ) : ℂ)
      * Complex.exp (-(Complex.I * ((2 * Real.pi * 0 / 1 : ℝ) : ℂ) * (n : ℂ)))).sum‖ ∧
    ¬ 1 / 1000000000000 < ‖((List.range 0).map fun n : Nat => ((([] : List ℝ).getD n 0 : ℝ) : ℂ)
      * Complex.exp (-(Complex.I * ((2 * Real.pi * 0 / 1 : ℝ) : ℂ) * (n : ℂ)))).sum‖ := by
  refine ⟨by decide, ?_, ?_⟩ <;> simp
  norm_num

/-- A state for each error code. -/
theorem witness_StatusWordLayout : ∀ e : ErrCode, (State.errcode { State.reset with errcode := e }) = e :=
  fun _ => rfl

/-! ### Reset -/

theorem witness_ResetValues :
    State.reset = State.reset ∧ Reg.cmd ≠ .id ∧ Reg.cmd ≠ .limits ∧ State.reset.busy = false := by
  decide

/-- A transform with a legal and one with a refused length, a design that passes and one that does not, an
`NPOT`, an illegal word. -/
theorem witness_ResetWhileBusyKeepsOtherElements :
    ((busyWith 0x1).busy = true ∧ decode (busyWith 0x1).lastcmd = .command .fft ∧
      State.len { busyWith 0x1 with len := 3 } = 3) ∧
    (decode (busyWith 0x43).lastcmd = .command (.firbp .rect false false false) ∧
      designNeeds (.firbp .rect false false false) = some (true, false) ∧
      (design 1 0 0).designCheck true false ≠ none ∧ (design 1 0 0).designCheck true true = none) ∧
    (decode (busyWith 0x2).lastcmd = .command .npot ∧
      decode (busyWith 0x0).lastcmd = .illegal .reservedOpcode) := by
  decide +kernel

/-- The first address past the window. -/
theorem witness_WindowDecodesBase :
    Config.base ≤ Config.base + 0x02000000 ∧ Config.base + 0x02000000 ≤ Config.base + 0x02000000 :=
  ⟨Nat.le_add_right _ _, Nat.le_refl _⟩

end Sys2Proof.Tests
end

section
/-! SUPPORT. The engine never stops, and what makes it busy (00_scope R14, R15; 10_state R22, R24). -/

namespace Sys2Proof.Machine

/-! ### Every step answers a next state -/

/-- Every command has a meaning, and every meaning is a completion (60_exceptions R177). -/
theorem exec_next (i : Instr) (s : State) : ∃ t, exec i s = .next t := by
  cases i <;> exact ⟨_, rfl⟩

theorem engineStep_next (s : State) : ∃ t, engineStep s = .next t := by
  cases hd : decode s.lastcmd with
  | command i => simpa only [engineStep, hd] using exec_next i s
  | illegal why => exact ⟨s.raiseError .illegalCmd, by simp only [engineStep, hd]⟩

/-- Settles O6: the engine's turn ends in a completion, and the host's turn and the pause are next states. -/
theorem everyStepAnswersNext : Obligations.EveryStepAnswersNext := by
  intro s
  unfold step
  split
  · exact engineStep_next s
  · split
    · exact ⟨_, rfl⟩
    · exact ⟨_, rfl⟩

/-! ### Acceptance is the only way to become busy -/

@[simp] theorem portRead_busy (s : State) (width : Nat) (o : Offset) :
    (s.portRead width o).busy = s.busy := by
  rcases portRead_cases s width o with ⟨-, h⟩ | ⟨r, -, h⟩ | ⟨b, i, -, -, h⟩ | ⟨b, i, -, -, h⟩ <;> rw [h] <;> rfl

/-- Of the writes performed while idle, the one to `CMD` alone sets `BUSY`. -/
theorem cmd_of_writeLocation_busy {s : State} {l : Location} {v : Word} (hs : s.busy = false)
    (ht : (s.writeLocation l v).busy = true) : l = .reg .cmd := by
  cases l with
  | elem b i => exact absurd (hs.symm.trans ht) Bool.false_ne_true
  | reg r =>
    cases r with
    | cmd => rfl
    | _ => exact absurd (hs.symm.trans ht) Bool.false_ne_true

/-- `CMD` is at 0x008 and at no other offset (10_state R20). -/
theorem registerAt_eq_cmd {o : Nat} (h : registerAt o = some .cmd) : o = 0x008 := by
  unfold registerAt at h
  split at h <;> simp_all

theorem locate_eq_cmd {o : Nat} (h : locate o = some (.reg .cmd)) : o = 0x008 := by
  unfold locate at h
  split at h
  · simp at h
  · split at h
    · simp at h
    · split at h
      · simp at h
      · exact registerAt_eq_cmd (by simpa using h)

/-- The one access that reaches `CMD` is 64 bits wide, at 0x008 (20_memory R61, R63). -/
theorem reach_eq_cmd {width : Nat} {o : Offset} (h : reach width o = some (.reg .cmd)) :
    width = 8 ∧ o = 0x008 := by
  unfold reach at h
  split at h
  · rename_i hw
    exact ⟨hw.1, BitVec.eq_of_toNat_eq (locate_eq_cmd h)⟩
  · simp at h

/-- A host action that makes an idle engine busy is an acceptance (30_encoding R93). -/
theorem hostStep_busy {s : State} {a : HostAction} (hs : s.busy = false) (ht : (s.hostStep a).busy = true) :
    ∃ v, a = .write 8 0x008 v ∧ s.hostStep a = (s.accept v).respond .ok := by
  cases a with
  | read width o => simp [State.hostStep, hs] at ht
  | reset => simp [State.hostStep] at ht
  | write width o v =>
    change (s.portWrite width o v).busy = true at ht
    rcases portWrite_cases s width o v with ⟨-, h⟩ | ⟨l, -, hb, -⟩ | ⟨l, hl, -, h⟩
    · rw [h, State.respond_busy, hs] at ht
      exact absurd ht Bool.false_ne_true
    · exact absurd (hs.symm.trans hb) Bool.false_ne_true
    · obtain rfl := cmd_of_writeLocation_busy hs (by rwa [h, State.respond_busy] at ht)
      obtain ⟨rfl, rfl⟩ := reach_eq_cmd hl
      exact ⟨v, rfl, h⟩

/-- Settles O12: of the three kinds of step the engine's needs a busy engine and the pause changes nothing, so
it is the host's, and then an acceptance. -/
theorem onlyCmdWriteStartsCommand : Obligations.OnlyCmdWriteStartsCommand := by
  intro s t hstep hs ht
  rcases step_cases hstep with ⟨hb, -, -⟩ | ⟨-, -, rfl⟩ | ⟨⟨first, a⟩, rest, hscript, -, rfl⟩
  · exact absurd (hs.symm.trans hb) Bool.false_ne_true
  · exact absurd (hs.symm.trans ht) Bool.false_ne_true
  · obtain ⟨v, rfl, h⟩ := hostStep_busy (s := { s with script := rest }) hs ht
    exact ⟨first, v, rest, hscript, by rw [h]; rfl, by rw [h]; rfl⟩

end Sys2Proof.Machine
end

section
/-! SUPPORT. A command writes what its operands say and nothing else decides it (00_scope R16; 30_encoding
R89). -/

namespace Sys2Proof.Machine

/-! ### The transform commands -/

theorem loadElems_congr {m m' : Memory} {b : Buffer} {n : Nat}
    (h : ∀ i, i < n → readElem m b i = readElem m' b i) : loadElems m b n = loadElems m' b n :=
  List.map_congr_left fun i hi => h i (List.mem_range.mp hi)

theorem State.points_congr {s s' : State} {n : Nat}
    (h : ∀ i, i < n → readElem s.mem .re i = readElem s'.mem .re i ∧
      readElem s.mem .im i = readElem s'.mem .im i) : s.points n = s'.points n := by
  have hre := loadElems_congr fun i hi => (h i hi).1
  have him := loadElems_congr fun i hi => (h i hi).2
  simp only [State.points, hre, him]

@[simp] theorem State.points_length (s : State) (n : Nat) : (s.points n).length = n := by
  simp [State.points]

/-- Both parts of the points that a transform has written read back. -/
theorem readElem_storeValues_re_im (s : State) {xs ys : List F} {n : Nat} (hx : n < xs.length)
    (hy : n < ys.length) (hxl : xs.length ≤ Config.fftMaxLen) (hyl : ys.length ≤ Config.fftMaxLen) :
    readElem ((s.storeValues .re xs).storeValues .im ys).mem .re n
      = xs[n].toWord (Config.freeWord (s.draws + n)) ∧
    readElem ((s.storeValues .re xs).storeValues .im ys).mem .im n
      = ys[n].toWord (Config.freeWord (s.draws + xs.length + n)) := by
  constructor
  · rw [← readElem_storeValues s .re xs hx]
    exact readElem_storeElems_otherBuffer _ _ (by decide) (lt_of_lt_of_le hx hxl)
      (by rw [freePatterns_length]; exact hyl)
  · exact readElem_storeValues (s.storeValues .re xs) .im ys hy

/-- Two runs of a transform over the same points, at the same place of the stream of NaN patterns, report the
same and leave the same points. -/
theorem runTransform_congr (f : Nat → List (F × F) → List (F × F)) (hf : ∀ N x, (f N x).length = x.length)
    {s s' : State} (hlen : s.len = s'.len) (hdraws : s.draws = s'.draws)
    (helems : ∀ n, n < s.len.toNat → readElem s.mem .re n = readElem s'.mem .re n ∧
      readElem s.mem .im n = readElem s'.mem .im n) :
    (runTransform f s).err = (runTransform f s').err ∧
    (runTransform f s).errcode = (runTransform f s').errcode ∧
    (runTransform f s).wns = (runTransform f s').wns ∧
    ∀ n, n < s.len.toNat →
      readElem (runTransform f s).mem .re n = readElem (runTransform f s').mem .re n ∧
      readElem (runTransform f s).mem .im n = readElem (runTransform f s').mem .im n := by
  have hN : s'.pointCount = s.pointCount := by rw [State.pointCount, State.pointCount, hlen]
  have hpoints : s'.points s.pointCount = s.points s.pointCount := (State.points_congr helems).symm
  have h' := runTransform_cases f s'
  rw [hN, hpoints] at h'
  rcases runTransform_cases f s with ⟨hbad, h⟩ | ⟨hgood, h⟩
  · rcases h' with ⟨-, h'⟩ | ⟨hgood, -⟩
    · rw [h, h']
      exact ⟨rfl, rfl, rfl, helems⟩
    · exact absurd (hbad.symm.trans hgood) (by decide)
  · rcases h' with ⟨hbad, -⟩ | ⟨-, h'⟩
    · exact absurd (hbad.symm.trans hgood) (by decide)
    · rw [h, h']
      refine ⟨rfl, rfl, rfl, fun n hn => ?_⟩
      have hy : (f s.pointCount (s.points s.pointCount)).length = s.pointCount := by
        rw [hf, State.points_length]
      have hmax := (goodLength_bounds hgood).2
      have hn : n < s.pointCount := hn
      have hread := fun s₀ : State => readElem_storeValues_re_im s₀
        (xs := (f s.pointCount (s.points s.pointCount)).map Prod.fst)
        (ys := (f s.pointCount (s.points s.pointCount)).map Prod.snd) (n := n)
        (by simpa [hy]) (by simpa [hy]) (by simpa [hy]) (by simpa [hy])
      obtain ⟨hre, him⟩ := hread s
      obtain ⟨hre', him'⟩ := hread s'
      rw [← hdraws] at hre' him'
      exact ⟨hre.trans hre'.symm, him.trans him'.symm⟩

/-- Settles O39: both transforms are `runTransform` of an algorithm that keeps the number of points. -/
theorem transformDependsOnItsOperands : Obligations.TransformDependsOnItsOperands := by
  intro s s' i t t' hi hlen hdraws helems ht ht'
  rcases hi with rfl | rfl
  · cases ht
    cases ht'
    exact runTransform_congr _ (forwardTransform_length binary64) hlen hdraws helems
  · cases ht
    cases ht'
    exact runTransform_congr _ (inverseTransform_length binary64) hlen hdraws helems

/-! ### The design commands -/

/-- `KBETA` matters with `KBV = 1` only (42_fir_design R147). -/
theorem State.beta_congr {s s' : State} {kbv : Bool} (h : kbv = true → s.kbeta = s'.kbeta) :
    s.beta kbv = s'.beta kbv := by
  cases kbv with
  | false => rfl
  | true => simp only [State.beta, h rfl]

/-- The shape parameter matters to the Kaiser window only (42_fir_design R141). -/
theorem windowedTaps_congr {α : Type} (A : Arith α) {win : Window} {beta beta' : α} (T : Nat)
    (ideal : Nat → α) (h : win = .kaiser → beta = beta') :
    windowedTaps A win beta T ideal = windowedTaps A win beta' T ideal := by
  cases win with
  | kaiser => rw [h rfl]
  | _ => rfl

theorem State.designCheck_congr {s s' : State} (htaps : s.taps = s'.taps) (hsrate : s.srate = s'.srate)
    (needsF2 f2v : Bool) : s.designCheck needsF2 f2v = s'.designCheck needsF2 f2v := by
  have hrate : s.goodRate = s'.goodRate := by simp only [State.goodRate, State.sampleRate, hsrate]
  have hT : s.tapCount = s'.tapCount := congrArg BitVec.toNat htaps
  simp only [State.designCheck, hrate, hT]

/-- What the third phase writes and warns of is decided by the sampling rate and the arguments. -/
theorem State.finishDesign_uniform (srate fref : F) (norm : Bool) (taps : List F) :
    ∃ (out : List F) (warn : Bool), out.length = taps.length ∧ ∀ s : State, s.sampleRate = srate →
      s.finishDesign norm fref taps = (s.storeValues .tap out).complete warn := by
  cases norm with
  | false => exact ⟨taps, false, rfl, fun _ _ => rfl⟩
  | true =>
    cases h : normalise binary64 fref srate taps with
    | none => exact ⟨taps, true, rfl, fun s hs => by simp [State.finishDesign, hs, h]⟩
    | some scaled =>
      exact ⟨scaled, false, normalise_length binary64 h, fun s hs => by simp [State.finishDesign, hs, h]⟩

/-- Two completions report the same and leave the same taps, if they report no error. -/
def sameDesign (t t' : State) (T : Nat) : Prop :=
  t.err = t'.err ∧ t.errcode = t'.errcode ∧ t.wns = t'.wns ∧
    (t.err = false → ∀ n, n < T → readElem t.mem .tap n = readElem t'.mem .tap n)

theorem finishDesign_congr {s s' : State} (hsrate : s.srate = s'.srate) (hdraws : s.draws = s'.draws)
    (norm : Bool) (fref : F) (taps : List F) :
    sameDesign (s.finishDesign norm fref taps) (s'.finishDesign norm fref taps) taps.length := by
  obtain ⟨out, warn, hlen, hout⟩ := State.finishDesign_uniform s.sampleRate fref norm taps
  rw [hout s rfl, hout s' (congrArg F.ofWord hsrate.symm)]
  refine ⟨rfl, rfl, rfl, fun _ n hn => ?_⟩
  have hn : n < out.length := by omega
  have h := readElem_storeValues s .tap out hn
  rw [hdraws, ← readElem_storeValues s' .tap out hn] at h
  exact h

/-- The common algorithm reads `TAPS`, `SRATE`, the shape parameter if the window is Kaiser's, and what the
shape hands to it. -/
theorem runDesign_congr {s s' : State} (htaps : s.taps = s'.taps) (hsrate : s.srate = s'.srate)
    (hdraws : s.draws = s'.draws) {win : Window} {kbv : Bool}
    (hbeta : win = .kaiser → kbv = true → s.kbeta = s'.kbeta) (needsF2 norm f2v : Bool)
    (ideal : F → Nat → F) (fref : F) :
    sameDesign (s.runDesign needsF2 win norm f2v kbv ideal fref)
      (s'.runDesign needsF2 win norm f2v kbv ideal fref) s.taps.toNat := by
  have hT : s'.tapCount = s.tapCount := congrArg BitVec.toNat htaps.symm
  have h' := runDesign_cases s' needsF2 win norm f2v kbv ideal fref
  rw [← State.designCheck_congr htaps hsrate, hT,
    ← windowedTaps_congr binary64 s.tapCount _ fun hw => State.beta_congr (hbeta hw)] at h'
  rcases runDesign_cases s needsF2 win norm f2v kbv ideal fref with ⟨e, hcheck, h⟩ | ⟨hcheck, h⟩
  · simp only [hcheck, Option.some.injEq, exists_eq_left', reduceCtorEq, false_and, or_false] at h'
    rw [h, h']
    exact ⟨rfl, rfl, rfl, nofun⟩
  · simp only [hcheck, reduceCtorEq, false_and, exists_false, true_and, false_or] at h'
    rw [h, h']
    have hfinish := finishDesign_congr hsrate hdraws norm fref
      (windowedTaps binary64 win (s.beta kbv) s.tapCount (ideal (centre binary64 s.tapCount)))
    rwa [windowedTaps_length] at hfinish

theorem State.fc1_congr {s s' : State} (hsrate : s.srate = s'.srate) (hf1 : s.f1 = s'.f1) :
    s.fc1 = s'.fc1 := by
  simp only [State.fc1, State.cutoff1, State.sampleRate, hf1, hsrate]

theorem State.fc2_congr {s s' : State} (hsrate : s.srate = s'.srate) (hf2 : s.f2 = s'.f2) :
    s.fc2 = s'.fc2 := by
  simp only [State.fc2, State.cutoff2, State.sampleRate, hf2, hsrate]

/-- Settles O38: each shape hands to the common algorithm its relative cutoffs and its reference frequency,
which the operands it names decide. -/
theorem designDependsOnItsOperands : Obligations.DesignDependsOnItsOperands := by
  intro s s' i win norm f2v kbv t t' htaps hsrate hf1 hdraws hbeta hi ht ht'
  have hfc1 := State.fc1_congr hsrate hf1
  rcases hi with rfl | rfl | ⟨hf2, rfl | rfl⟩ <;> cases ht <;> cases ht'
  · rw [← hfc1]
    exact runDesign_congr htaps hsrate hdraws hbeta _ _ _ _ _
  · have href : s.nyquist = s'.nyquist := by simp only [State.nyquist, State.sampleRate, hsrate]
    rw [← hfc1, ← href]
    exact runDesign_congr htaps hsrate hdraws hbeta _ _ _ _ _
  · have href : s.bandCentre = s'.bandCentre := by
      simp only [State.bandCentre, State.cutoff1, State.cutoff2, hf1, hf2]
    rw [← hfc1, ← State.fc2_congr hsrate hf2, ← href]
    exact runDesign_congr htaps hsrate hdraws hbeta _ _ _ _ _
  · rw [← hfc1, ← State.fc2_congr hsrate hf2]
    exact runDesign_congr htaps hsrate hdraws hbeta _ _ _ _ _

end Sys2Proof.Machine
end

section
/-! SUPPORT. Correct rounding (00_scope R8): what it means for a real number of units to round to a multiple of
the spacing in its binade, and that the result is then the nearest value of `F`. -/

namespace Sys2Proof.Machine

/-! ### Rounding to a multiple of the spacing -/

/-- `v` units, in the binade of spacing `2^j`, round to `k · 2^j`: the nearest multiple, a tie going to the
even one. -/
structure RoundsTo (v : ℝ) (k j : Nat) : Prop where
  nonneg : 0 ≤ v
  below : v < 2 ^ (53 + j)
  above : j = 0 ∨ 2 ^ (52 + j) ≤ v
  near : 2 * |v - k * 2 ^ j| ≤ 2 ^ j
  even_of_tie : 2 * |v - k * 2 ^ j| = 2 ^ j → k % 2 = 0

theorem roundsTo_zero : RoundsTo 0 0 0 where
  nonneg := le_rfl
  below := by positivity
  above := .inl rfl
  near := by simp
  even_of_tie _ := rfl

section
variable {v : ℝ} {k j : Nat}

/-- The significand has at most 53 bits, or is 2^53, which moves to the next binade. -/
theorem RoundsTo.significand_le (h : RoundsTo v k j) : k ≤ 2 ^ 53 := by
  have hp : (0 : ℝ) < 2 ^ j := by positivity
  have hnear := abs_le.mp (show |v - k * 2 ^ j| ≤ 2 ^ j / 2 by linarith [h.near])
  have hbelow := h.below
  rw [pow_add] at hbelow
  have hlt : (k : ℝ) < 2 ^ 53 + 1 := by
    refine lt_of_mul_lt_mul_right ?_ hp.le
    linarith [hnear.1]
  exact Nat.le_of_lt_succ (by exact_mod_cast hlt)

/-- Above the lowest binade the significand is normal. -/
theorem RoundsTo.le_significand (h : RoundsTo v k j) : j = 0 ∨ 2 ^ 52 ≤ k := by
  refine h.above.imp_right fun habove => ?_
  have hp : (0 : ℝ) < 2 ^ j := by positivity
  have hnear := abs_le.mp (show |v - k * 2 ^ j| ≤ 2 ^ j / 2 by linarith [h.near])
  rw [pow_add] at habove
  have hlt : (2 : ℝ) ^ 52 < k + 1 := by
    refine lt_of_mul_lt_mul_right ?_ hp.le
    linarith [hnear.2]
  exact Nat.le_of_lt_succ (by exact_mod_cast hlt)

theorem RoundsTo.representable (h : RoundsTo v k j) : Representable (k * 2 ^ j) := by
  rcases h.significand_le.lt_or_eq with hlt | rfl
  · exact ⟨k, j, hlt, rfl⟩
  · exact ⟨1, 53 + j, by norm_num, by rw [pow_add, one_mul]⟩

/-- The spacing at a multiple `k · 2^j` whose significand has 53 bits. -/
theorem spacing_normal (h1 : 2 ^ 52 ≤ k) (h2 : k < 2 ^ 53) : spacing (k * 2 ^ j) = 2 ^ j := by
  obtain ⟨f, rfl⟩ := Nat.exists_eq_add_of_le h1
  rw [spacing, log2_normal (by omega), Nat.add_sub_cancel_left]

theorem spacing_eq_one {n : Nat} (h : n < 2 ^ 53) : spacing n = 1 := by
  have hlog : Nat.log2 n < 53 := by
    rcases Nat.eq_zero_or_pos n with rfl | hn
    · decide
    · exact (Nat.log2_lt hn.ne').mpr h
  rw [spacing, Nat.sub_eq_zero_of_le (by omega), pow_zero]

/-- An even multiple of the spacing of its binade has an even significand. -/
theorem RoundsTo.even_significand (h : RoundsTo v k j) (hk : k % 2 = 0) :
    k * 2 ^ j / spacing (k * 2 ^ j) % 2 = 0 := by
  have hpos := Nat.two_pow_pos j
  rcases h.significand_le.lt_or_eq with hlt | rfl
  · rcases h.le_significand with rfl | hge
    · rwa [pow_zero, mul_one, spacing_eq_one hlt, Nat.div_one]
    · rwa [spacing_normal hge hlt, Nat.mul_div_cancel _ hpos]
  · have hsplit : 2 ^ 53 * 2 ^ j = 2 ^ 52 * 2 ^ (j + 1) := by ring
    rw [hsplit, spacing_normal le_rfl (by norm_num), Nat.mul_div_cancel _ (Nat.two_pow_pos _)]
    norm_num

/-! ### The nearest representable magnitude -/

/-- No other multiple of the spacing is nearer, and a tie means an even multiplier. -/
theorem RoundsTo.le_multiple (h : RoundsTo v k j) (l : Nat) :
    |k * 2 ^ j - v| ≤ |l * 2 ^ j - v| ∧
    (|k * 2 ^ j - v| = |l * 2 ^ j - v| → l ≠ k → k % 2 = 0) := by
  rcases eq_or_ne l k with rfl | hne
  · exact ⟨le_rfl, fun _ hne => absurd rfl hne⟩
  · have hp : (0 : ℝ) < 2 ^ j := by positivity
    have hone : (1 : ℝ) ≤ |(l : ℝ) - k| := by
      have hint : (1 : ℤ) ≤ |(l : ℤ) - k| := Int.one_le_abs (by omega)
      exact_mod_cast hint
    have hgap : (2 : ℝ) ^ j ≤ |(l : ℝ) * 2 ^ j - k * 2 ^ j| := by
      rw [← sub_mul, abs_mul, abs_of_pos hp]
      exact le_mul_of_one_le_left hp.le hone
    have htri := abs_sub_le ((l : ℝ) * 2 ^ j) v (k * 2 ^ j)
    have hnear := h.near
    have hcomm := abs_sub_comm ((k : ℝ) * 2 ^ j) v
    exact ⟨by linarith, fun htie _ => h.even_of_tie (by linarith)⟩

/-- A representable magnitude in or above a binade is a multiple of the binade's spacing. -/
theorem pow_dvd_of_representable {m : Nat} (hm : Representable m) (hge : j = 0 ∨ 2 ^ (52 + j) ≤ m) :
    2 ^ j ∣ m := by
  rcases hge with rfl | hge
  · simp
  · have hne : m ≠ 0 := (lt_of_lt_of_le (Nat.two_pow_pos _) hge).ne'
    have hlog : 52 + j ≤ Nat.log2 m := (Nat.le_log2 hne).mpr hge
    exact (Nat.pow_dvd_pow 2 (by omega)).trans (spacing_dvd hm)

/-- No other representable magnitude is nearer, and a tie means an even multiplier. A magnitude below the
binade is farther away than the binade's own lower end. -/
theorem RoundsTo.le_representable (h : RoundsTo v k j) {m : Nat} (hm : Representable m) :
    |((k * 2 ^ j : Nat) : ℝ) - v| ≤ |(m : ℝ) - v| ∧
    (|((k * 2 ^ j : Nat) : ℝ) - v| = |(m : ℝ) - v| → m ≠ k * 2 ^ j → k % 2 = 0) := by
  push_cast
  by_cases hge : j = 0 ∨ 2 ^ (52 + j) ≤ m
  · obtain ⟨l, rfl⟩ := pow_dvd_of_representable hm hge
    rw [mul_comm (2 ^ j) l]
    obtain ⟨hle, htie⟩ := h.le_multiple l
    push_cast
    exact ⟨hle, fun heq hne => htie heq fun hlk => hne (by rw [hlk])⟩
  · obtain ⟨hj, hlt⟩ := not_or.mp hge
    have hv : (2 : ℝ) ^ (52 + j) ≤ v := h.above.resolve_left hj
    have hmv : (m : ℝ) < 2 ^ (52 + j) := by exact_mod_cast not_le.mp hlt
    have hend := (h.le_multiple (2 ^ 52)).1
    rw [Nat.cast_pow, Nat.cast_ofNat, ← pow_add, abs_of_nonpos (sub_nonpos.mpr hv)] at hend
    rw [abs_of_neg (a := (m : ℝ) - v) (by linarith)]
    exact ⟨by linarith, fun heq _ => by linarith⟩

/-- A result of at least `2^n` comes from at least half a spacing below `2^n`. -/
theorem RoundsTo.overflow (h : RoundsTo v k j) {n e : Nat} (hne : n = 54 + e)
    (hover : 2 ^ n ≤ k * 2 ^ j) : (2 : ℝ) ^ n - 2 ^ e ≤ v := by
  have hk := h.significand_le
  have hbinade : n ≤ 53 + j := by
    rw [← Nat.pow_le_pow_iff_right (a := 2) (by norm_num), pow_add 2 53]
    exact hover.trans (Nat.mul_le_mul_right _ hk)
  have hhalf : (0 : ℝ) < 2 ^ e := by positivity
  rcases eq_or_ne j (e + 1) with rfl | hj
  · have hreal : (2 : ℝ) ^ n ≤ k * 2 ^ (e + 1) := by exact_mod_cast hover
    have hnear := h.near
    rw [pow_succ'] at hreal hnear
    have hnear := abs_le.mp (show |v - k * (2 * 2 ^ e)| ≤ 2 ^ e by linarith)
    linarith [hnear.1]
  · have hv := h.above.resolve_left (by omega)
    have hmono : (2 : ℝ) ^ n ≤ 2 ^ (52 + j) := pow_le_pow_right₀ one_le_two (by omega)
    linarith

end

/-! ### Signed values -/

/-- The factor that a sign bit stands for. -/
def signFactor (neg : Bool) : ℝ :=
  if neg then -1 else 1

@[simp] theorem signFactor_false : signFactor false = 1 := rfl

@[simp] theorem signFactor_true : signFactor true = -1 := rfl

@[simp] theorem signFactor_not (a : Bool) : signFactor (!a) = -signFactor a := by
  cases a <;> simp

@[simp] theorem signFactor_xor (a b : Bool) : signFactor (a ^^ b) = signFactor a * signFactor b := by
  cases a <;> cases b <;> simp

/-- The units in 1.0, as a real number. A name, so that no simplification looks into the power. -/
noncomputable def unitsPerOne : ℝ :=
  2 ^ 1074

theorem unitsPerOne_pos : 0 < unitsPerOne := by
  unfold unitsPerOne
  positivity

theorem oneUnits_cast : (oneUnits : ℝ) = unitsPerOne := by
  rw [oneUnits, unitsPerOne, Nat.cast_pow, Nat.cast_ofNat]

theorem oneUnits_pos : 0 < oneUnits := by
  rw [oneUnits]
  positivity

theorem realOf_fin (neg : Bool) (n : Nat) : realOf (.fin neg n) = signFactor neg * n / unitsPerOne := rfl

/-- The distance between two values of one sign, and a bound for any two signs. -/
theorem abs_sub_signed_same (neg : Bool) (x v : ℝ) :
    |signFactor neg * x / unitsPerOne - signFactor neg * v / unitsPerOne| = |x - v| / unitsPerOne := by
  rw [← sub_div, ← mul_sub, abs_div, abs_mul, abs_of_pos unitsPerOne_pos]
  cases neg <;> simp

theorem abs_sub_signed_opposite {neg neg' : Bool} (hne : neg' ≠ neg) {x v : ℝ} (hx : 0 ≤ x) (hv : 0 ≤ v) :
    |signFactor neg' * x / unitsPerOne - signFactor neg * v / unitsPerOne| = (x + v) / unitsPerOne := by
  rw [← sub_div, abs_div, abs_of_pos unitsPerOne_pos, Bool.eq_not_of_ne hne, signFactor_not,
    show -signFactor neg * x - signFactor neg * v = -signFactor neg * (x + v) by ring, abs_mul,
    abs_of_nonneg (add_nonneg hx hv)]
  cases neg <;> simp

/-- The value with a given sign and magnitude in units, an infinity from `bound` on. Irreducible, so that no
elaboration evaluates a comparison with the bound of `F`. -/
@[irreducible] def finiteOrInf (bound : Nat) (neg : Bool) (n : Nat) : F :=
  if bound ≤ n then .inf neg else .fin neg n

theorem finiteOrInf_of_ge {bound : Nat} {neg : Bool} {n : Nat} (h : bound ≤ n) :
    finiteOrInf bound neg n = .inf neg := by
  rw [finiteOrInf, if_pos h]

theorem finiteOrInf_of_lt {bound : Nat} {neg : Bool} {n : Nat} (h : n < bound) :
    finiteOrInf bound neg n = .fin neg n := by
  rw [finiteOrInf, if_neg h.not_ge]

theorem roundF_eq (neg : Bool) (p q : Nat) :
    roundF neg p q = finiteOrInf overflowUnits neg (roundUnits p q) := by
  unfold finiteOrInf
  rfl

theorem correctlyRounded_inf {v : ℝ} (neg : Bool) (h : (2 : ℝ) ^ 1024 - 2 ^ 970 ≤ v) :
    CorrectlyRounded (signFactor neg * v) (.inf neg) := by
  cases neg with
  | false => exact h.trans_eq (one_mul v).symm
  | true => exact (neg_one_mul v).trans_le (neg_le_neg h)

/-- An overflow comes from half a spacing beyond the largest finite value. -/
theorem RoundsTo.inf_bound {v : ℝ} {k j : Nat} (h : RoundsTo v k j) (hover : overflowUnits ≤ k * 2 ^ j) :
    (2 : ℝ) ^ 1024 - 2 ^ 970 ≤ v / unitsPerOne := by
  rw [le_div_iff₀ unitsPerOne_pos, sub_mul, unitsPerOne, ← pow_add, ← pow_add]
  rw [overflowUnits] at hover
  exact h.overflow (n := 2098) (e := 2044) (by norm_num) hover

theorem RoundsTo.fin_nearest {v : ℝ} {k j : Nat} (h : RoundsTo v k j) (neg neg' : Bool) {m : Nat}
    (hm : Representable m) :
    |realOf (.fin neg (k * 2 ^ j)) - signFactor neg * v / unitsPerOne|
        ≤ |realOf (.fin neg' m) - signFactor neg * v / unitsPerOne| ∧
      (|realOf (.fin neg (k * 2 ^ j)) - signFactor neg * v / unitsPerOne|
          = |realOf (.fin neg' m) - signFactor neg * v / unitsPerOne| →
        realOf (.fin neg' m) ≠ realOf (.fin neg (k * 2 ^ j)) → k % 2 = 0) := by
  obtain ⟨hle, htie⟩ := h.le_representable hm
  rw [realOf_fin, realOf_fin, abs_sub_signed_same]
  rcases eq_or_ne neg' neg with rfl | hneg
  · rw [abs_sub_signed_same, div_le_div_iff_of_pos_right unitsPerOne_pos,
      div_left_inj' unitsPerOne_pos.ne']
    exact ⟨hle, fun heq hne => htie heq fun hmk => hne (by rw [hmk])⟩
  · rw [abs_sub_signed_opposite hneg (Nat.cast_nonneg m) h.nonneg,
      div_le_div_iff_of_pos_right unitsPerOne_pos, div_left_inj' unitsPerOne_pos.ne']
    obtain ⟨hzero, -⟩ := h.le_representable (m := 0) ⟨0, 0, by norm_num, rfl⟩
    have hm0 : (0 : ℝ) ≤ m := Nat.cast_nonneg m
    rw [Nat.cast_zero, zero_sub, abs_neg, abs_of_nonneg h.nonneg] at hzero
    refine ⟨by linarith, fun heq hne => ?_⟩
    obtain rfl : m = 0 := by
      have : (m : ℝ) ≤ 0 := by linarith
      exact_mod_cast le_antisymm this hm0
    refine htie ?_ fun hmk => hne ?_
    · rw [heq, Nat.cast_zero, zero_add, zero_sub, abs_neg, abs_of_nonneg h.nonneg]
    · rw [← hmk]
      simp

/-- The rounded magnitude, with either sign, is the correctly rounded value of `F` (00_scope R8). -/
theorem RoundsTo.correctlyRounded {v : ℝ} {k j : Nat} (h : RoundsTo v k j) (neg : Bool) :
    CorrectlyRounded (signFactor neg * v / unitsPerOne) (finiteOrInf overflowUnits neg (k * 2 ^ j)) := by
  by_cases hfinite : k * 2 ^ j < overflowUnits
  · rw [finiteOrInf_of_lt hfinite]
    refine ⟨h.representable, hfinite, fun neg' m hm => ?_⟩
    obtain ⟨hle, htie⟩ := h.fin_nearest neg neg' hm
    exact ⟨hle, fun heq hne => h.even_significand (htie heq hne)⟩
  · have hover := not_lt.mp hfinite
    rw [finiteOrInf_of_ge hover, mul_div_assoc]
    exact correctlyRounded_inf neg (h.inf_bound hover)

end Sys2Proof.Machine
end

section
/-! SUPPORT. The primitive operations give correctly rounded results (00_scope R8). -/

namespace Sys2Proof.Machine

/-! ### The rounded quotient -/

/-- The rounded quotient lies within half a divisor, and a tie goes to the even one. -/
theorem roundHalfEven_spec (p : Nat) {d : Nat} (hd : 0 < d) :
    2 * p ≤ 2 * (roundHalfEven p d * d) + d ∧ 2 * (roundHalfEven p d * d) ≤ 2 * p + d ∧
    (2 * p = 2 * (roundHalfEven p d * d) + d ∨ 2 * (roundHalfEven p d * d) = 2 * p + d →
      roundHalfEven p d % 2 = 0) := by
  have hdiv := Nat.div_add_mod' p d
  have hmod := Nat.mod_lt p hd
  simp only [roundHalfEven]
  split
  · rw [Nat.add_mul, one_mul]
    omega
  · omega

/-- The same over the real numbers, in the form of `RoundsTo`. -/
theorem roundHalfEven_near (p : Nat) {q j : Nat} (hq : 0 < q) :
    2 * |(p / q : ℝ) - roundHalfEven p (q * 2 ^ j) * 2 ^ j| ≤ 2 ^ j ∧
    (2 * |(p / q : ℝ) - roundHalfEven p (q * 2 ^ j) * 2 ^ j| = 2 ^ j →
      roundHalfEven p (q * 2 ^ j) % 2 = 0) := by
  obtain ⟨hlow, hhigh, htie⟩ := roundHalfEven_spec p (d := q * 2 ^ j) (Nat.mul_pos hq (Nat.two_pow_pos j))
  generalize roundHalfEven p (q * 2 ^ j) = k at hlow hhigh htie ⊢
  have hq' : (0 : ℝ) < q := Nat.cast_pos.mpr hq
  have hscale : q * (2 * |(p / q : ℝ) - k * 2 ^ j|) = |(2 * p - 2 * (k * (q * 2 ^ j)) : ℝ)| := by
    rw [← abs_of_pos (a := (2 : ℝ)) two_pos, ← abs_of_pos hq', ← abs_mul, ← abs_mul, abs_of_pos hq',
      abs_of_pos (a := (2 : ℝ)) two_pos]
    congr 1
    field_simp
  have hlow' : (2 * p : ℝ) ≤ 2 * (k * (q * 2 ^ j)) + q * 2 ^ j := by exact_mod_cast hlow
  have hhigh' : (2 * (k * (q * 2 ^ j)) : ℝ) ≤ 2 * p + q * 2 ^ j := by exact_mod_cast hhigh
  constructor
  · refine le_of_mul_le_mul_left ?_ hq'
    rw [hscale]
    exact abs_le.mpr ⟨by linarith, by linarith⟩
  · intro heq
    rw [heq] at hscale
    refine htie ?_
    rcases eq_or_eq_neg_of_abs_eq hscale.symm with h | h
    · left
      have h' : (2 * p : ℝ) = 2 * (k * (q * 2 ^ j)) + q * 2 ^ j := by linarith
      exact_mod_cast h'
    · right
      have h' : (2 * (k * (q * 2 ^ j)) : ℝ) = 2 * p + q * 2 ^ j := by linarith
      exact_mod_cast h'

/-- The number of bits that the significand of a magnitude with integer part `t` leaves out. -/
def binade (t : Nat) : Nat :=
  Nat.log2 t - 52

theorem lt_binade_top (t : Nat) : t + 1 ≤ 2 ^ (53 + binade t) :=
  Nat.lt_log2_self.trans_le (Nat.pow_le_pow_right two_pos (by unfold binade; omega))

theorem binade_bottom_le (t : Nat) : binade t = 0 ∨ 2 ^ (52 + binade t) ≤ t := by
  unfold binade
  rcases Nat.eq_zero_or_pos (Nat.log2 t - 52) with h | h
  · exact .inl h
  · refine .inr ?_
    have ht : t ≠ 0 := by
      rintro rfl
      simp at h
    rw [Nat.add_sub_cancel' (by omega)]
    exact Nat.log2_self_le ht

/-- A real number with integer part `t` lies in the binade of `t`. -/
theorem in_binade {v : ℝ} {t : Nat} (hlow : (t : ℝ) ≤ v) (hhigh : v < t + 1) :
    v < 2 ^ (53 + binade t) ∧ (binade t = 0 ∨ 2 ^ (52 + binade t) ≤ v) := by
  constructor
  · have htop : ((t + 1 : Nat) : ℝ) ≤ ((2 ^ (53 + binade t) : Nat) : ℝ) := Nat.cast_le.mpr (lt_binade_top t)
    push_cast at htop
    linarith
  · refine (binade_bottom_le t).imp_right fun h => ?_
    have hbottom : ((2 ^ (52 + binade t) : Nat) : ℝ) ≤ t := Nat.cast_le.mpr h
    push_cast at hbottom
    linarith

theorem quotient_bounds (p : Nat) {q : Nat} (hq : 0 < q) :
    ((p / q : Nat) : ℝ) ≤ (p / q : ℝ) ∧ (p / q : ℝ) < (p / q : Nat) + 1 := by
  have hq' : (0 : ℝ) < q := Nat.cast_pos.mpr hq
  refine ⟨Nat.cast_div_le, ?_⟩
  rw [div_lt_iff₀ hq']
  have h := Nat.lt_mul_div_succ p hq
  rw [mul_comm] at h
  exact_mod_cast h

theorem roundUnits_eq (p q : Nat) :
    roundUnits p q = roundHalfEven p (q * 2 ^ binade (p / q)) * 2 ^ binade (p / q) := rfl

/-- What the model rounds a quotient of units to. -/
theorem roundsTo_quotient (p : Nat) {q : Nat} (hq : 0 < q) :
    RoundsTo (p / q) (roundHalfEven p (q * 2 ^ binade (p / q))) (binade (p / q)) := by
  obtain ⟨hlow, hhigh⟩ := quotient_bounds p hq
  obtain ⟨hbelow, habove⟩ := in_binade hlow hhigh
  obtain ⟨hnear, htie⟩ := roundHalfEven_near p (j := binade (p / q)) hq
  exact ⟨by positivity, hbelow, habove, hnear, htie⟩

/-- A number that rounds as the quotient `p / q` does is correctly rounded by `roundF`. -/
theorem RoundsTo.correctlyRounded_roundF {v : ℝ} {p q : Nat} {r : F} (neg : Bool)
    (h : RoundsTo v (roundHalfEven p (q * 2 ^ binade (p / q))) (binade (p / q)))
    (hr : r = roundF neg p q) : CorrectlyRounded (signFactor neg * v / unitsPerOne) r := by
  rw [hr, roundF_eq, roundUnits_eq]
  exact h.correctlyRounded neg

theorem roundF_correctlyRounded {v : ℝ} (neg : Bool) (p : Nat) {q : Nat} (hq : 0 < q) {r : F}
    (hr : r = roundF neg p q) (hv : v = signFactor neg * (p / q) / unitsPerOne) : CorrectlyRounded v r := by
  rw [hv]
  exact (roundsTo_quotient p hq).correctlyRounded_roundF neg hr

/-- An exact zero of either sign. -/
theorem zero_correctlyRounded (neg : Bool) : CorrectlyRounded 0 (.fin neg 0) := by
  have h := roundsTo_zero.correctlyRounded neg
  rwa [mul_zero, zero_div, zero_mul, finiteOrInf_of_lt (by unfold overflowUnits; positivity)] at h

/-! ### Addition, subtraction, multiplication, division -/

theorem isfinite_iff {x : F} : isfinite x = true ↔ ∃ neg n, x = .fin neg n := by
  cases x <;> simp [isfinite]

@[simp] theorem signFactor_mul_self (a : Bool) : signFactor a * signFactor a = 1 := by
  cases a <;> simp

@[simp] theorem signFactor_inv (a : Bool) : (signFactor a)⁻¹ = signFactor a :=
  inv_eq_of_mul_eq_one_left (signFactor_mul_self a)

theorem signFactor_of_ne {a b : Bool} (h : a ≠ b) : signFactor b = -signFactor a := by
  rw [Bool.eq_not_of_ne h, signFactor_not, neg_neg]

theorem fadd_fin_eq (a b : Bool) (m n : Nat) :
    fadd (.fin a m) (.fin b n)
      = if a = b then roundF a (m + n) 1
        else if n < m then roundF a (m - n) 1
        else if m < n then roundF b (n - m) 1
        else .fin false 0 := rfl

theorem fmul_fin_eq (a b : Bool) (m n : Nat) :
    fmul (.fin a m) (.fin b n) = roundF (a ^^ b) (m * n) oneUnits := rfl

theorem fdiv_fin_eq {n : Nat} (hn : n ≠ 0) (a b : Bool) (m : Nat) :
    fdiv (.fin a m) (.fin b n) = roundF (a ^^ b) (m * oneUnits) n :=
  if_neg hn

section
variable {x y : F} (hx : isfinite x = true) (hy : isfinite y = true)
include hx hy

/-- Magnitudes of one sign are added, of opposite signs subtracted, and the sign is that of the larger. -/
theorem fadd_correctlyRounded : CorrectlyRounded (realOf x + realOf y) (fadd x y) := by
  obtain ⟨a, m, rfl⟩ := isfinite_iff.mp hx
  obtain ⟨b, n, rfl⟩ := isfinite_iff.mp hy
  generalize hr : fadd (.fin a m) (.fin b n) = r
  rw [realOf_fin, realOf_fin]
  rw [fadd_fin_eq] at hr
  by_cases hab : a = b
  · rw [if_pos hab] at hr
    refine roundF_correctlyRounded a (m + n) one_pos hr.symm ?_
    rw [hab]
    push_cast
    ring
  · rw [if_neg hab] at hr
    rw [signFactor_of_ne hab]
    rcases lt_trichotomy n m with hlt | rfl | hlt
    · rw [if_pos hlt] at hr
      refine roundF_correctlyRounded a (m - n) one_pos hr.symm ?_
      rw [Nat.cast_sub hlt.le]
      push_cast
      ring
    · rw [if_neg (lt_irrefl n), if_neg (lt_irrefl n)] at hr
      rw [← hr, neg_mul, neg_div, add_neg_cancel]
      exact zero_correctlyRounded false
    · rw [if_neg hlt.not_gt, if_pos hlt] at hr
      refine roundF_correctlyRounded b (n - m) one_pos hr.symm ?_
      rw [signFactor_of_ne hab, Nat.cast_sub hlt.le]
      push_cast
      ring

theorem fmul_correctlyRounded : CorrectlyRounded (realOf x * realOf y) (fmul x y) := by
  obtain ⟨a, m, rfl⟩ := isfinite_iff.mp hx
  obtain ⟨b, n, rfl⟩ := isfinite_iff.mp hy
  generalize hr : fmul (.fin a m) (.fin b n) = r
  rw [fmul_fin_eq] at hr
  refine roundF_correctlyRounded (a ^^ b) (m * n) oneUnits_pos hr.symm ?_
  rw [realOf_fin, realOf_fin, signFactor_xor, oneUnits_cast]
  push_cast
  ring

theorem fdiv_correctlyRounded (hne : realOf y ≠ 0) :
    CorrectlyRounded (realOf x / realOf y) (fdiv x y) := by
  obtain ⟨a, m, rfl⟩ := isfinite_iff.mp hx
  obtain ⟨b, n, rfl⟩ := isfinite_iff.mp hy
  have hn : n ≠ 0 := by
    rintro rfl
    exact hne (by simp [realOf_fin])
  generalize hr : fdiv (.fin a m) (.fin b n) = r
  rw [fdiv_fin_eq hn] at hr
  refine roundF_correctlyRounded (a ^^ b) (m * oneUnits) (Nat.pos_of_ne_zero hn) hr.symm ?_
  have hunit := unitsPerOne_pos.ne'
  have hn' : (n : ℝ) ≠ 0 := Nat.cast_ne_zero.mpr hn
  rw [realOf_fin, realOf_fin, signFactor_xor, Nat.cast_mul, oneUnits_cast, div_div_div_cancel_right₀ hunit,
    mul_div_mul_comm, div_eq_mul_inv (signFactor a), signFactor_inv]
  field_simp

end

theorem isfinite_negate {x : F} (hx : isfinite x = true) : isfinite x.negate = true := by
  obtain ⟨neg, n, rfl⟩ := isfinite_iff.mp hx
  rfl

theorem realOf_negate {x : F} (hx : isfinite x = true) : realOf x.negate = -realOf x := by
  obtain ⟨neg, n, rfl⟩ := isfinite_iff.mp hx
  rw [F.negate, realOf_fin, realOf_fin, signFactor_not, neg_mul, neg_div]

theorem fsub_correctlyRounded {x y : F} (hx : isfinite x = true) (hy : isfinite y = true) :
    CorrectlyRounded (realOf x - realOf y) (fsub x y) := by
  rw [sub_eq_add_neg, ← realOf_negate hy]
  exact fadd_correctlyRounded hx (isfinite_negate hy)

/-- Settles O40: the four operations form the exact result, a quotient of natural numbers of units, and round
it once. -/
theorem arithmeticCorrectlyRounded : Obligations.ArithmeticCorrectlyRounded :=
  fun _ _ hx hy => ⟨fadd_correctlyRounded hx hy, fsub_correctlyRounded hx hy, fmul_correctlyRounded hx hy,
    fdiv_correctlyRounded hx hy⟩

/-! ### The square root -/

/-- The bit-by-bit root keeps `r² ≤ n` and an upper bound that the remaining bits can still reach. -/
theorem isqrtBits_spec (n : Nat) {fuel r : Nat} (hlow : r * r ≤ n)
    (hhigh : n < (r + 2 ^ fuel) * (r + 2 ^ fuel)) :
    isqrtBits n fuel r * isqrtBits n fuel r ≤ n ∧ n < (isqrtBits n fuel r + 1) * (isqrtBits n fuel r + 1) := by
  induction fuel generalizing r with
  | zero => exact ⟨hlow, by simpa [isqrtBits] using hhigh⟩
  | succ fuel ih =>
    unfold isqrtBits
    rw [pow_succ, mul_two, ← add_assoc] at hhigh
    by_cases ht : (r + 2 ^ fuel) * (r + 2 ^ fuel) ≤ n
    · simp only [if_pos ht]
      exact ih ht hhigh
    · simp only [if_neg ht]
      exact ih hlow (not_le.mp ht)

/-- The model's root is the library's integer square root. -/
theorem isqrt_eq_sqrt (n : Nat) : isqrt n = Nat.sqrt n := by
  have hn : n < 2 ^ (Nat.log2 n / 2 + 1) * 2 ^ (Nat.log2 n / 2 + 1) := by
    rw [← pow_add]
    exact Nat.lt_log2_self.trans_le (Nat.pow_le_pow_right two_pos (by omega))
  exact Nat.eq_sqrt.mpr (isqrtBits_spec n (Nat.zero_le _) (by simpa using hn))

theorem natCast_le_of_le_add_half {a b : Nat} (h : (a : ℝ) ≤ b + 1 / 2) : (a : ℝ) ≤ b := by
  have hlt : (a : ℝ) < ((b + 1 : Nat) : ℝ) := by
    push_cast
    linarith
  exact Nat.cast_le.mpr (Nat.le_of_lt_succ (Nat.cast_lt.mp hlt))

/-- Between two integers lies no rounding boundary of a binade whose spacing is even: every number there
rounds as the half does. -/
theorem RoundsTo.of_half {v : ℝ} {r k j : Nat} (h : RoundsTo ((r : ℝ) + 1 / 2) k j) (hj : j ≠ 0)
    (hlow : (r : ℝ) < v) (hhigh : v < r + 1) : RoundsTo v k j := by
  have habove := h.above.resolve_left hj
  have hbelow := h.below
  have hnear := h.near
  obtain ⟨i, rfl⟩ := Nat.exists_eq_add_one_of_ne_zero hj
  rw [pow_succ] at hnear
  have hnear := abs_le.mp (show |(r : ℝ) + 1 / 2 - k * (2 ^ i * 2)| ≤ 2 ^ i by linarith)
  have hleft := natCast_le_of_le_add_half (a := k * (2 ^ i * 2)) (b := r + 2 ^ i)
    (by push_cast; linarith [hnear.1])
  have hright := natCast_le_of_le_add_half (a := r + 1) (b := k * (2 ^ i * 2) + 2 ^ i)
    (by push_cast; linarith [hnear.2])
  have hbottom := natCast_le_of_le_add_half (a := 2 ^ (52 + (i + 1))) (b := r) (by push_cast; linarith)
  have htop := natCast_le_of_le_add_half (a := r + 1) (b := 2 ^ (53 + (i + 1))) (by push_cast; linarith)
  push_cast at hleft hright hbottom htop
  have hstrict : 2 * |v - k * 2 ^ (i + 1)| < 2 ^ (i + 1) := by
    have hlt : |v - k * (2 ^ i * 2)| < 2 ^ i := abs_lt.mpr ⟨by linarith, by linarith⟩
    rw [pow_succ]
    linarith
  exact ⟨(Nat.cast_nonneg r).trans hlow.le, by linarith, .inr (by linarith), hstrict.le,
    fun htie => absurd htie hstrict.ne⟩

/-- The root of a magnitude of `n` units, in units. -/
theorem sqrt_realOf (n : Nat) :
    Real.sqrt (realOf (.fin false n)) = Real.sqrt ((n * oneUnits : Nat) : ℝ) / unitsPerOne := by
  have hunit := unitsPerOne_pos
  have hroot : Real.sqrt (unitsPerOne * unitsPerOne) = unitsPerOne := Real.sqrt_mul_self hunit.le
  conv_rhs => rw [← hroot, ← Real.sqrt_div (Nat.cast_nonneg _), Nat.cast_mul, oneUnits_cast,
    mul_div_mul_right _ _ hunit.ne']
  rw [realOf_fin, signFactor_false, one_mul]

theorem sqrtUnits_eq (n : Nat) :
    sqrtUnits n = roundF false (2 * Nat.sqrt (n * oneUnits)
      + (if Nat.sqrt (n * oneUnits) * Nat.sqrt (n * oneUnits) = n * oneUnits then 0 else 1)) 2 := by
  rw [← isqrt_eq_sqrt]
  rfl

/-- The root of at least one unit is so large that the spacing around it is even. -/
theorem binade_sqrt_ne_zero {n : Nat} (hn : n ≠ 0) : binade (Nat.sqrt (n * oneUnits)) ≠ 0 := by
  have hbig : 2 ^ 53 * 2 ^ 53 ≤ n * oneUnits := by
    calc 2 ^ 53 * 2 ^ 53 = 2 ^ 106 := (pow_add 2 53 53).symm
      _ ≤ oneUnits := pow_le_pow_right₀ one_le_two (by norm_num)
      _ ≤ n * oneUnits := Nat.le_mul_of_pos_left _ (Nat.pos_of_ne_zero hn)
  have hroot : 2 ^ 53 ≤ Nat.sqrt (n * oneUnits) := Nat.le_sqrt.mpr hbig
  have hlog : 53 ≤ Nat.log2 (Nat.sqrt (n * oneUnits)) :=
    (Nat.le_log2 (lt_of_lt_of_le (by norm_num) hroot).ne').mpr hroot
  unfold binade
  omega

theorem sqrt_between {x : Nat} (hne : Nat.sqrt x * Nat.sqrt x ≠ x) :
    (Nat.sqrt x : ℝ) < Real.sqrt x ∧ Real.sqrt x < Nat.sqrt x + 1 := by
  have hlow : Nat.sqrt x * Nat.sqrt x < x := lt_of_le_of_ne (Nat.sqrt_le x) hne
  refine ⟨Real.lt_sqrt_of_sq_lt ?_, Real.real_sqrt_lt_nat_sqrt_succ⟩
  rw [sq]
  exact_mod_cast hlow

/-- A number strictly between two integers rounds as the half between them. -/
theorem roundsTo_between {v : ℝ} {r : Nat} (hr : binade r ≠ 0) (hlow : (r : ℝ) < v) (hhigh : v < r + 1) :
    RoundsTo v (roundHalfEven (2 * r + 1) (2 * 2 ^ binade ((2 * r + 1) / 2))) (binade ((2 * r + 1) / 2)) := by
  have hhalf := roundsTo_quotient (2 * r + 1) two_pos
  have hfloor : (2 * r + 1) / 2 = r := by omega
  have hmid : ((2 * r + 1 : Nat) : ℝ) / (2 : Nat) = r + 1 / 2 := by
    push_cast
    ring
  rw [hmid] at hhalf
  exact hhalf.of_half (by rwa [hfloor]) hlow hhigh

theorem fsqrt_zero (neg : Bool) : fsqrt (.fin neg 0) = .fin neg 0 := rfl

theorem fsqrt_fin_eq {n : Nat} (hn : n ≠ 0) : fsqrt (.fin false n) = sqrtUnits n :=
  (if_neg hn).trans (if_neg Bool.false_ne_true)

theorem realOf_neg_lt {n : Nat} (hn : n ≠ 0) : realOf (.fin true n) < 0 := by
  have hn' : (0 : ℝ) < n := Nat.cast_pos.mpr (Nat.pos_of_ne_zero hn)
  rw [realOf_fin, signFactor_true, neg_one_mul, neg_div]
  exact neg_neg_of_pos (div_pos hn' unitsPerOne_pos)

theorem sqrtUnits_correctlyRounded {n : Nat} (hn : n ≠ 0) {r : F} (hr : sqrtUnits n = r) :
    CorrectlyRounded (Real.sqrt (realOf (.fin false n))) r := by
  rw [sqrtUnits_eq] at hr
  rw [sqrt_realOf]
  by_cases hsq : Nat.sqrt (n * oneUnits) * Nat.sqrt (n * oneUnits) = n * oneUnits
  · rw [if_pos hsq] at hr
    refine roundF_correctlyRounded false _ two_pos hr.symm ?_
    have hexact : Real.sqrt ((n * oneUnits : Nat) : ℝ) = Nat.sqrt (n * oneUnits) := by
      rw [← hsq, Nat.cast_mul, Real.sqrt_mul_self (Nat.cast_nonneg _), hsq]
    rw [hexact, signFactor_false]
    push_cast
    ring
  · rw [if_neg hsq] at hr
    obtain ⟨hlow, hhigh⟩ := sqrt_between hsq
    have hroot := roundsTo_between (binade_sqrt_ne_zero hn) hlow hhigh
    rw [← one_mul (Real.sqrt _), ← signFactor_false]
    exact hroot.correctlyRounded_roundF false hr.symm

/-- The root of a positive value is rounded by `sqrtUnits`, and either zero is its own root. -/
theorem fsqrt_correctlyRounded {x : F} (hx : isfinite x = true) (hnonneg : 0 ≤ realOf x) :
    CorrectlyRounded (Real.sqrt (realOf x)) (fsqrt x) := by
  obtain ⟨neg, n, rfl⟩ := isfinite_iff.mp hx
  rcases eq_or_ne n 0 with rfl | hn
  · rw [fsqrt_zero, realOf_fin, Nat.cast_zero, mul_zero, zero_div, Real.sqrt_zero]
    exact zero_correctlyRounded neg
  · cases neg with
    | false =>
      generalize hr : fsqrt (.fin false n) = r
      rw [fsqrt_fin_eq hn] at hr
      exact sqrtUnits_correctlyRounded hn hr
    | true => exact absurd hnonneg (realOf_neg_lt hn).not_ge

/-- Settles O41: the integer root decides on which side of every rounding boundary the exact root lies. -/
theorem squareRootCorrectlyRounded : Obligations.SquareRootCorrectlyRounded :=
  fun _ => fsqrt_correctlyRounded

end Sys2Proof.Machine
end

section
/-! SUPPORT. The constants are the nearest values (00_scope R10), and what `SIN` and `COS` promise (00_scope
R9). -/

namespace Sys2Proof.Machine

/-! ### The constants -/

/-- A normal value, from the fields of its pattern. -/
theorem ofWord_normal {w : Word} {f e : Nat} (hf : (w.extractLsb' 0 52).toNat = f)
    (he : (w.extractLsb' 52 11).toNat = e + 1) (hfinite : e + 1 < 2047) :
    F.ofWord w = .fin (w.getLsbD 63) ((2 ^ 52 + f) * 2 ^ e) := by
  simp only [F.ofWord, hf, he]
  rw [if_neg hfinite.ne, if_neg (Nat.succ_ne_zero e), Nat.add_sub_cancel]

/-- A real number between two powers of two rounds to the 53-bit significand within half a unit of it. -/
theorem roundsTo_of_significand {c : ℝ} {k e i : Nat} (hi : e + i = 1074) (hlow : 2 ^ 52 ≤ c * 2 ^ i)
    (hhigh : c * 2 ^ i < 2 ^ 53) (hnear : |c * 2 ^ i - k| < 1 / 2) : RoundsTo (c * unitsPerOne) k e := by
  have hp : (0 : ℝ) < 2 ^ e := by positivity
  have hsplit : c * unitsPerOne = c * 2 ^ i * 2 ^ e := by
    rw [unitsPerOne, ← hi, pow_add]
    ring
  have hstrict : 2 * |c * 2 ^ i * 2 ^ e - k * 2 ^ e| < 2 ^ e := by
    rw [← sub_mul, abs_mul, abs_of_pos hp, ← mul_assoc]
    exact mul_lt_of_lt_one_left hp (by linarith)
  rw [hsplit]
  refine ⟨?_, ?_, .inr ?_, hstrict.le, fun htie => absurd htie hstrict.ne⟩
  · exact mul_nonneg (le_trans (by positivity) hlow) hp.le
  · rw [pow_add]
    exact mul_lt_mul_of_pos_right hhigh hp
  · rw [pow_add]
    exact mul_le_mul_of_nonneg_right hlow hp.le

/-- The pattern `w`, of sign `neg`, significand `2^52 + f` and exponent of one unit `2^-i`, lies within half a
unit of `v`. -/
structure NearestPattern (v : ℝ) (w : Word) (neg : Bool) (f e i : Nat) : Prop where
  sign : w.getLsbD 63 = neg
  fraction : (w.extractLsb' 0 52).toNat = f
  exponent : (w.extractLsb' 52 11).toNat = e + 1
  scale : e + i = 1074
  bounds : 2 ^ 52 ≤ signFactor neg * v * 2 ^ i ∧
    2 ^ 52 + (f : ℝ) - 1 / 2 < signFactor neg * v * 2 ^ i ∧
    signFactor neg * v * 2 ^ i < 2 ^ 52 + (f : ℝ) + 1 / 2

theorem NearestPattern.correctlyRounded {v : ℝ} {w : Word} {neg : Bool} {f e i : Nat}
    (h : NearestPattern v w neg f e i) : CorrectlyRounded v (F.ofWord w) := by
  obtain ⟨hnormal, hlow, hhigh⟩ := h.bounds
  have hw := ofWord_normal h.fraction h.exponent (by have := h.scale; omega)
  have hf : (f : ℝ) + 1 ≤ 2 ^ 52 := by
    have hlt := fractionBits_lt w
    rw [h.fraction] at hlt
    exact_mod_cast hlt
  have hnear : |signFactor neg * v * 2 ^ i - (2 ^ 52 + f : Nat)| < 1 / 2 := by
    push_cast
    exact abs_lt.mpr ⟨by linarith, by linarith⟩
  have hround := roundsTo_of_significand (k := 2 ^ 52 + f) h.scale hnormal (by linarith) hnear
  have hrounded := hround.correctlyRounded neg
  rwa [finiteOrInf_of_lt (ofWord_fin hw).2, ← h.sign, ← hw, h.sign, ← mul_assoc, ← mul_assoc,
    signFactor_mul_self, one_mul, mul_div_cancel_right₀ _ unitsPerOne_pos.ne'] at hrounded

/-- Twenty decimals of `π` settle its 53 bits. -/
theorem pi_nearestPattern : NearestPattern Real.pi (constWord .pi) false 0x921FB54442D18 1023 51 := by
  have hlow := Real.pi_gt_d20
  have hhigh := Real.pi_lt_d20
  refine ⟨rfl, rfl, rfl, rfl, ?_⟩
  rw [signFactor_false, one_mul]
  exact ⟨by linarith, by norm_num; linarith, by norm_num; linarith⟩

/-- The significand and exponent of every constant but `TWO_PI`, which is a product, and `ZERO`. -/
theorem const_nearestPattern (c : Const) (htwoPi : c ≠ .twoPi) (hzero : c ≠ .zero) :
    ∃ neg f e i, NearestPattern (exactConst c) (constWord c) neg f e i := by
  cases c with
  | twoPi => exact absurd rfl htwoPi
  | zero => exact absurd rfl hzero
  | pi => exact ⟨_, _, _, _, pi_nearestPattern⟩
  | eps => exact ⟨false, 0x19799812DEA11, 982, 92, rfl, rfl, rfl, rfl, by norm_num [exactConst]⟩
  | one => exact ⟨false, 0, 1022, 52, rfl, rfl, rfl, rfl, by norm_num [exactConst]⟩
  | negOne => exact ⟨true, 0, 1022, 52, rfl, rfl, rfl, rfl, by norm_num [exactConst]⟩
  | two => exact ⟨false, 0, 1023, 51, rfl, rfl, rfl, rfl, by norm_num [exactConst]⟩
  | half => exact ⟨false, 0, 1021, 53, rfl, rfl, rfl, rfl, by norm_num [exactConst]⟩
  | c054 => exact ⟨false, 0x147AE147AE148, 1021, 53, rfl, rfl, rfl, rfl, by norm_num [exactConst]⟩
  | c046 => exact ⟨false, 0xD70A3D70A3D71, 1020, 54, rfl, rfl, rfl, rfl, by norm_num [exactConst]⟩
  | c042 => exact ⟨false, 0xAE147AE147AE1, 1020, 54, rfl, rfl, rfl, rfl, by norm_num [exactConst]⟩
  | c008 => exact ⟨false, 0x47AE147AE147B, 1018, 56, rfl, rfl, rfl, rfl, by norm_num [exactConst]⟩

theorem const_eq_ofWord (c : Const) : binary64.const c = F.ofWord (constWord c) := rfl

theorem ofWord_zero : F.ofWord 0 = .fin false 0 := by
  decide

theorem const_correctlyRounded (c : Const) (htwoPi : c ≠ .twoPi) :
    CorrectlyRounded (exactConst c) (binary64.const c) := by
  rw [const_eq_ofWord]
  by_cases hzero : c = .zero
  · rw [hzero, exactConst, constWord, ofWord_zero]
    exact zero_correctlyRounded false
  · obtain ⟨neg, f, e, i, h⟩ := const_nearestPattern c htwoPi hzero
    exact h.correctlyRounded

/-- Doubling a value of `F` is exact: the product needs no rounding. -/
theorem fmul_two {w : Word} {k e : Nat} (hw : F.ofWord w = .fin false (k * 2 ^ (e + 1))) :
    fmul (binary64.const .two) (.fin false (k * 2 ^ e)) = .fin false (k * 2 ^ (e + 1)) := by
  obtain ⟨hrep, hlt⟩ := ofWord_fin hw
  have htwo : F.ofWord (constWord .two) = .fin false ((2 ^ 52 + 0) * 2 ^ 1023) :=
    ofWord_normal rfl rfl (by norm_num)
  have hunits : (2 ^ 52 + 0) * 2 ^ 1023 * (k * 2 ^ e) = k * 2 ^ (e + 1) * oneUnits := by
    rw [oneUnits, add_zero, ← pow_add, mul_left_comm, ← pow_add, mul_assoc, ← pow_add]
    congr 2
    omega
  rw [const_eq_ofWord, htwo, fmul_fin_eq, hunits]
  exact roundF_representable _ hrep hlt oneUnits_pos

theorem twoPi_eq_fmul : binary64.const .twoPi = fmul (binary64.const .two) (binary64.const .pi) := by
  have hpi : F.ofWord (constWord .pi) = .fin false ((2 ^ 52 + 0x921FB54442D18) * 2 ^ 1023) :=
    ofWord_normal rfl rfl (by norm_num)
  have htwoPi : F.ofWord (constWord .twoPi) = .fin false ((2 ^ 52 + 0x921FB54442D18) * 2 ^ (1023 + 1)) :=
    ofWord_normal rfl rfl (by norm_num)
  rw [const_eq_ofWord .twoPi, const_eq_ofWord .pi, htwoPi, hpi]
  exact (fmul_two htwoPi).symm

/-- Settles O42: each constant's significand lies within half a unit of the real number it stands for. -/
theorem constantsAreNearest : Obligations.ConstantsAreNearest :=
  ⟨const_correctlyRounded, twoPi_eq_fmul⟩

/-! ### `SIN` and `COS` -/

theorem ofWord_one : F.ofWord 0x3FF0000000000000 = .fin false oneUnits := by
  have h : F.ofWord 0x3FF0000000000000 = .fin false ((2 ^ 52 + 0) * 2 ^ 1022) :=
    ofWord_normal rfl rfl (by norm_num)
  rw [h, oneUnits, add_zero, ← pow_add]

theorem sinF_not_finite {x : F} (h : isfinite x = false) : sinF x = .anyNan := by
  cases x with
  | fin neg n => simp [isfinite] at h
  | _ => rfl

theorem cosF_not_finite {x : F} (h : isfinite x = false) : cosF x = .anyNan := by
  cases x with
  | fin neg n => simp [isfinite] at h
  | _ => rfl

/-- Settles O43: the zeros are a case of their own in `SIN` and `COS`, and so is what is not finite. -/
theorem sineAndCosineContract : Obligations.SineAndCosineContract :=
  ⟨fun _ => ⟨ofWord_one.symm, rfl⟩,
    fun _ h => ⟨⟨none, sinF_not_finite h⟩, ⟨none, cosF_not_finite h⟩⟩⟩

end Sys2Proof.Machine
end

section
/-! SUPPORT. What the execute step can do, said once for all commands (60_exceptions R177), and what follows
for the buffers, `NPOT_OUT` and the interrupt (10_state R33, R42 to R44, R48). -/

namespace Sys2Proof.Machine

/-! ### The completions of a command -/

theorem State.tapCount_le_of_designCheck {s : State} {needsF2 f2v : Bool}
    (h : s.designCheck needsF2 f2v = none) : s.tapCount ≤ Config.tapsMax := by
  rcases designCheck_cases s needsF2 f2v with ⟨-, h'⟩ | ⟨-, -, -, h'⟩ | ⟨-, -, -, h'⟩ | ⟨-, -, hT, -⟩
  · simp [h'] at h
  · simp [h'] at h
  · simp [h'] at h
  · exact hT

/-- The codes of the design checks: `E_MISSING_PARAM` only for a two-cutoff shape without `F2V`
(42_fir_design R131). -/
theorem State.code_of_designCheck {s : State} {needsF2 f2v : Bool} {e : ErrCode}
    (h : s.designCheck needsF2 f2v = some e) :
    e = .invalidParam ∨ (e = .missingParam ∧ needsF2 = true ∧ f2v = false) := by
  rcases designCheck_cases s needsF2 f2v with
    ⟨-, h'⟩ | ⟨-, hneeds, hf2v, h'⟩ | ⟨-, -, -, h'⟩ | ⟨-, -, -, h'⟩ <;> cases h.symm.trans h'
  · exact .inl rfl
  · exact .inr ⟨rfl, hneeds, hf2v⟩
  · exact .inl rfl

/-- `Executes s t`: `t` is what the execute step of the word in `LASTCMD` can make of `s`. One constructor per
kind of completion, with what decides it and how far its results reach. -/
inductive Executes (s : State) : State → Prop
  /-- The word decodes to no command. -/
  | illegal (why : Illegal) (hd : decode s.lastcmd = .illegal why) : Executes s (s.raiseError .illegalCmd)
  /-- A transform refuses its length. -/
  | badLength (hd : decode s.lastcmd = .command .fft ∨ decode s.lastcmd = .command .ifft) :
      Executes s (s.raiseError .invalidInput)
  /-- A transform writes its points. -/
  | transformed (hd : decode s.lastcmd = .command .fft ∨ decode s.lastcmd = .command .ifft) (xs ys : List F)
      (hx : xs.length ≤ Config.fftMaxLen) (hy : ys.length ≤ Config.fftMaxLen) :
      Executes s (((s.storeValues .re xs).storeValues .im ys).complete false)
  /-- `NPOT` writes `NPOT_OUT`. -/
  | npot (hd : decode s.lastcmd = .command .npot) :
      Executes s (State.complete { s with npotOut := nextPowerOfTwo s.npotIn } false)
  /-- A design fails one of its checks. -/
  | badDesign (i : Instr) (needsF2 f2v : Bool) (e : ErrCode) (hd : decode s.lastcmd = .command i)
      (hi : designNeeds i = some (needsF2, f2v)) (he : s.designCheck needsF2 f2v = some e) :
      Executes s (s.raiseError e)
  /-- A design writes its taps, with a warning only if its `NORM` is 1. -/
  | designed (i : Instr) (needsF2 f2v : Bool) (hd : decode s.lastcmd = .command i)
      (hi : designNeeds i = some (needsF2, f2v)) (xs : List F) (warn : Bool)
      (hx : xs.length ≤ Config.tapsMax) (hwarn : warn = true → i.fields.norm = true) :
      Executes s ((s.storeValues .tap xs).complete warn)

theorem runTransform_executes {f : Nat → List (F × F) → List (F × F)}
    (hf : ∀ N x, (f N x).length = x.length) {s : State}
    (hd : decode s.lastcmd = .command .fft ∨ decode s.lastcmd = .command .ifft) :
    Executes s (runTransform f s) := by
  rcases runTransform_cases f s with ⟨-, h⟩ | ⟨hgood, h⟩ <;> rw [h]
  · exact .badLength hd
  · have hmax := (goodLength_bounds hgood).2
    exact .transformed hd _ _ (by simpa [hf]) (by simpa [hf])

theorem runDesign_executes {s : State} {i : Instr} {needsF2 f2v : Bool} (hd : decode s.lastcmd = .command i)
    (hi : designNeeds i = some (needsF2, f2v)) (win : Window) (kbv : Bool) (ideal : F → Nat → F) (fref : F) :
    Executes s (s.runDesign needsF2 win i.fields.norm f2v kbv ideal fref) := by
  rcases runDesign_cases s needsF2 win i.fields.norm f2v kbv ideal fref with ⟨e, he, h⟩ | ⟨hcheck, h⟩ <;> rw [h]
  · exact .badDesign i needsF2 f2v e hd hi he
  · have hT := State.tapCount_le_of_designCheck hcheck
    rcases finishDesign_cases s i.fields.norm fref
      (windowedTaps binary64 win (s.beta kbv) s.tapCount (ideal (centre binary64 s.tapCount))) with
      ⟨scaled, -, hscaled, h⟩ | ⟨hnorm, -, h⟩ | ⟨-, h⟩ <;> rw [h]
    · have hlen := normalise_length binary64 hscaled
      exact .designed i needsF2 f2v hd hi scaled false (by simpa [hlen]) nofun
    · exact .designed i needsF2 f2v hd hi _ true (by simpa) fun _ => hnorm
    · exact .designed i needsF2 f2v hd hi _ false (by simpa) nofun

theorem executes_of_engineStep {s t : State} (h : engineStep s = .next t) : Executes s t := by
  rcases engineStep_cases h with ⟨i, hd, hexec⟩ | ⟨why, hd, rfl⟩
  · cases i with
    | fft => cases hexec; exact runTransform_executes (forwardTransform_length binary64) (.inl hd)
    | ifft => cases hexec; exact runTransform_executes (inverseTransform_length binary64) (.inr hd)
    | npot => cases hexec; exact .npot hd
    | _ => cases hexec; exact runDesign_executes hd rfl _ _ _ _
  · exact .illegal why hd

/-- Every completion sets `DONE` and leaves `IE` (60_exceptions R177). -/
theorem Executes.done_ie {s t : State} (h : Executes s t) : t.done = true ∧ t.ie = s.ie := by
  cases h <;> exact ⟨rfl, rfl⟩

/-! ### What a command leaves unchanged -/

theorem readElem_storeValues_otherBuffer (s : State) {b c : Buffer} (xs : List F) {i : Nat} (hne : c ≠ b)
    (hi : i < bufferDepth c) (hx : xs.length ≤ bufferDepth b) :
    readElem (s.storeValues b xs).mem c i = readElem s.mem c i :=
  readElem_storeElems_otherBuffer _ _ hne hi (by simpa)

/-- An element past the values written keeps its own. -/
theorem readElem_storeValues_beyond (s : State) (b : Buffer) (xs : List F) {i : Nat} (hi : xs.length ≤ i) :
    readElem (s.storeValues b xs).mem b i = readElem s.mem b i :=
  readWord_congr fun _ _ => readByte_storeValues_outside s b xs (by simp only [elemOffset]; omega)

/-- `RE` and `IM` are written by the transforms only (10_state R42, R43). -/
theorem Executes.readElem_points {s t : State} (h : Executes s t) (hfft : decode s.lastcmd ≠ .command .fft)
    (hifft : decode s.lastcmd ≠ .command .ifft) {b : Buffer} (hb : b ≠ .tap) {i : Nat}
    (hi : i < bufferDepth b) : readElem t.mem b i = readElem s.mem b i := by
  cases h with
  | transformed hd => exact absurd hd (not_or.mpr ⟨hfft, hifft⟩)
  | designed _ _ _ _ _ xs _ hx =>
    exact readElem_storeValues_otherBuffer s xs hb hi (Nat.le_succ_of_le hx)
  | _ => rfl

theorem readElem_tap_transformed (s : State) {xs ys : List F} (hx : xs.length ≤ Config.fftMaxLen)
    (hy : ys.length ≤ Config.fftMaxLen) {n : Nat} (hn : n < Config.tapDepth) :
    readElem ((s.storeValues .re xs).storeValues .im ys).mem .tap n = readElem s.mem .tap n :=
  (readElem_storeValues_otherBuffer _ (b := .im) ys (by decide) hn hy).trans
    (readElem_storeValues_otherBuffer s (b := .re) xs (by decide) hn hx)

/-- `TAP` is written by the design commands only (10_state R44). -/
theorem Executes.readElem_tap {s t : State} (h : Executes s t)
    (hnone : ∀ i, decode s.lastcmd = .command i → designNeeds i = none) {n : Nat} (hn : n < Config.tapDepth) :
    readElem t.mem .tap n = readElem s.mem .tap n := by
  cases h with
  | transformed _ xs ys hx hy => exact readElem_tap_transformed s hx hy hn
  | designed i _ _ hd hi => simp [hnone i hd] at hi
  | _ => rfl

/-- No command writes the last element of `TAP`: `TAPS_MAX` is one less than its depth (20_memory R72). -/
theorem Executes.readElem_tap_last {s t : State} (h : Executes s t) :
    readElem t.mem .tap Config.tapsMax = readElem s.mem .tap Config.tapsMax := by
  cases h with
  | transformed _ xs ys hx hy => exact readElem_tap_transformed s hx hy (by decide)
  | designed _ _ _ _ _ xs _ hx => exact readElem_storeValues_beyond s .tap xs hx
  | _ => rfl

/-- `NPOT_OUT` is written by `NPOT` only (10_state R33). -/
theorem Executes.npotOut {s t : State} (h : Executes s t) (hnpot : decode s.lastcmd ≠ .command .npot) :
    t.npotOut = s.npotOut := by
  cases h with
  | npot hd => exact absurd hd hnpot
  | _ => rfl

/-- Settles O10: each kind of completion writes one group of results, no further than its checks allow. -/
theorem engineWritesOnlyItsResults : Obligations.EngineWritesOnlyItsResults := by
  intro s t hstep
  have h := executes_of_engineStep hstep
  exact ⟨fun hfft hifft i hi => ⟨h.readElem_points hfft hifft (b := .re) (by decide) hi,
      h.readElem_points hfft hifft (b := .im) (by decide) hi⟩,
    fun hnone n hn => h.readElem_tap hnone hn, h.readElem_tap_last, h.npotOut⟩

end Sys2Proof.Machine
end

section
/-! SUPPORT. The invariant (10_state R23, R26, R28, R29, R39; 60_exceptions R171): it holds after power-up, and
every operation that a step is made of keeps it. -/

namespace Sys2Proof.Machine

/-! ### States that meet it -/

/-- With no error and no warning on record, the flags say only that a busy engine is not done. -/
theorem State.inv_of_noRecord {s : State} (hmem : Memory.wf s.mem = true)
    (hdone : s.busy = true → s.done = false) (herr : s.err = false) (hcode : s.errcode = .noError)
    (hwns : s.wns = false) : s.Inv := by
  refine ⟨hmem, ⟨fun hb => ⟨hdone hb, herr, hwns⟩, ?_, ?_, ?_⟩, ?_⟩
  · simp [herr, hcode]
  · simp [hwns]
  · simp [herr]
  · simp [State.recordMatchesCommand, hcode, hwns]

/-- Settles O13: nothing is written, nothing runs and nothing is on record after power-up. -/
theorem invariantAtReset : Obligations.InvariantAtReset :=
  State.inv_of_noRecord wf_reset nofun rfl rfl rfl

theorem State.inv_accept {s : State} (hmem : Memory.wf s.mem = true) (v : Word) : (s.accept v).Inv :=
  State.inv_of_noRecord hmem (fun _ => rfl) rfl rfl rfl

/-- A completion in error meets the invariant if its code is one that the command can leave. -/
theorem State.inv_raiseError {s : State} {e : ErrCode} (hmem : Memory.wf s.mem = true) (he : e ≠ .noError)
    (hrecord : (s.raiseError e).recordMatchesCommand) : (s.raiseError e).Inv :=
  ⟨hmem, ⟨nofun, iff_of_true rfl he, nofun, fun _ => rfl⟩, hrecord⟩

theorem State.inv_complete {s : State} (hmem : Memory.wf s.mem = true) : (s.complete false).Inv :=
  State.inv_of_noRecord hmem nofun rfl rfl rfl

theorem State.inv_completeWarned {s : State} (hmem : Memory.wf s.mem = true)
    (hrecord : (s.complete true).recordMatchesCommand) : (s.complete true).Inv :=
  ⟨hmem, ⟨nofun, iff_of_false nofun (not_not_intro rfl), fun _ => rfl, nofun⟩, hrecord⟩

/-! ### The engine's step -/

/-- The four shapes by what they need: the two-cutoff shapes are those that need `F2`. -/
theorem designNeeds_forms {i : Instr} {needsF2 f2v : Bool} (hi : designNeeds i = some (needsF2, f2v)) :
    ∃ win kbv,
      (needsF2 = false ∧ (i = .firlp win i.fields.norm f2v kbv ∨ i = .firhp win i.fields.norm f2v kbv)) ∨
      (needsF2 = true ∧ (i = .firbp win i.fields.norm f2v kbv ∨ i = .firbs win i.fields.norm f2v kbv)) := by
  cases i <;> cases hi
  case firlp win norm kbv => exact ⟨win, kbv, .inl ⟨rfl, .inl rfl⟩⟩
  case firhp win norm kbv => exact ⟨win, kbv, .inl ⟨rfl, .inr rfl⟩⟩
  case firbp win norm kbv => exact ⟨win, kbv, .inr ⟨rfl, .inl rfl⟩⟩
  case firbs win norm kbv => exact ⟨win, kbv, .inr ⟨rfl, .inr rfl⟩⟩

theorem designNeeds_anyForm {i : Instr} {needsF2 f2v : Bool} (hi : designNeeds i = some (needsF2, f2v)) :
    ∃ win kbv, i = .firlp win i.fields.norm f2v kbv ∨ i = .firhp win i.fields.norm f2v kbv ∨
      i = .firbp win i.fields.norm f2v kbv ∨ i = .firbs win i.fields.norm f2v kbv := by
  obtain ⟨win, kbv, ⟨-, h⟩ | ⟨-, h⟩⟩ := designNeeds_forms hi
  · exact ⟨win, kbv, by tauto⟩
  · exact ⟨win, kbv, by tauto⟩

/-- The codes of the design checks are ones that a design command can leave. -/
theorem inv_badDesign {s : State} {i : Instr} {needsF2 f2v : Bool} {e : ErrCode}
    (hmem : Memory.wf s.mem = true) (hd : decode s.lastcmd = .command i)
    (hi : designNeeds i = some (needsF2, f2v)) (he : s.designCheck needsF2 f2v = some e) :
    (s.raiseError e).Inv := by
  rcases State.code_of_designCheck he with rfl | ⟨rfl, rfl, rfl⟩
  · refine State.inv_raiseError hmem nofun ⟨nofun, nofun, fun _ => ?_, nofun, nofun⟩
    obtain ⟨win, kbv, h⟩ := designNeeds_anyForm hi
    exact ⟨win, i.fields.norm, f2v, kbv, by simpa only [State.raiseError_lastcmd, hd, Decoded.command.injEq]⟩
  · refine State.inv_raiseError hmem nofun ⟨nofun, nofun, nofun, fun _ => ?_, nofun⟩
    obtain ⟨win, kbv, ⟨h, -⟩ | ⟨-, h⟩⟩ := designNeeds_forms hi
    · cases h
    · exact ⟨win, i.fields.norm, kbv, by simpa only [State.raiseError_lastcmd, hd, Decoded.command.injEq]⟩

theorem inv_designed {s : State} {i : Instr} {needsF2 f2v warn : Bool} {xs : List F}
    (hmem : Memory.wf s.mem = true) (hd : decode s.lastcmd = .command i)
    (hi : designNeeds i = some (needsF2, f2v)) (hx : xs.length ≤ Config.tapsMax)
    (hwarn : warn = true → i.fields.norm = true) : ((s.storeValues .tap xs).complete warn).Inv := by
  have hmem' : Memory.wf (s.storeValues .tap xs).mem = true := wf_storeValues xs hmem (Nat.le_succ_of_le hx)
  cases warn with
  | false => exact State.inv_complete hmem'
  | true =>
    refine State.inv_completeWarned hmem' ⟨nofun, nofun, nofun, nofun, fun _ => ?_⟩
    obtain ⟨win, kbv, h⟩ := designNeeds_anyForm hi
    rw [hwarn rfl] at h
    exact ⟨win, f2v, kbv, by
      simpa only [State.complete_lastcmd, State.storeValues_lastcmd, hd, Decoded.command.injEq]⟩

theorem Executes.inv {s t : State} (h : Executes s t) (hmem : Memory.wf s.mem = true) : t.Inv := by
  cases h with
  | illegal why hd =>
    exact State.inv_raiseError hmem nofun ⟨fun _ => ⟨why, hd⟩, nofun, nofun, nofun, nofun⟩
  | badLength hd => exact State.inv_raiseError hmem nofun ⟨nofun, fun _ => hd, nofun, nofun, nofun⟩
  | transformed _ xs ys hx hy => exact State.inv_complete (wf_storeValues ys (wf_storeValues xs hmem hx) hy)
  | npot => exact State.inv_complete hmem
  | badDesign i _ _ e hd hi he => exact inv_badDesign hmem hd hi he
  | designed i _ _ hd hi xs warn hx hwarn => exact inv_designed hmem hd hi hx hwarn

/-! ### The host's step -/

theorem State.Inv.respond {s : State} (h : s.Inv) (a : PortAnswer) : (s.respond a).Inv := h

theorem State.Inv.dropWrite {s : State} (h : s.Inv) : s.dropWrite.Inv := h

theorem State.Inv.clearStatus {s : State} (h : s.Inv) (v : Word) : (s.clearStatus v).Inv := by
  obtain ⟨hmem, ⟨hbusy, hflags⟩, hrecord⟩ := h
  refine ⟨hmem, ⟨fun hb => ?_, hflags⟩, hrecord⟩
  obtain ⟨hdone, herr, hwns⟩ := hbusy hb
  exact ⟨by simp [State.clearStatus, hdone], herr, hwns⟩

theorem State.Inv.writeReg {s : State} (h : s.Inv) (r : Reg) (v : Word) : (s.writeReg r v).Inv := by
  cases r with
  | cmd => exact State.inv_accept h.1 v
  | status => exact h.clearStatus v
  | _ => exact h

theorem State.Inv.portRead {s : State} (h : s.Inv) (width : Nat) (o : Offset) : (s.portRead width o).Inv := by
  rcases portRead_cases s width o with ⟨-, h'⟩ | ⟨r, -, h'⟩ | ⟨b, i, -, -, h'⟩ | ⟨b, i, -, -, h'⟩ <;>
    rw [h'] <;> exact h

theorem State.Inv.portWrite {s : State} (h : s.Inv) (width : Nat) (o : Offset) (v : Word) :
    (s.portWrite width o v).Inv := by
  rcases portWrite_cases s width o v with ⟨-, h'⟩ | ⟨l, -, -, h'⟩ | ⟨l, hl, -, h'⟩ <;> rw [h']
  · exact h.respond _
  · exact h.dropWrite.respond _
  · cases l with
    | reg r => exact (h.writeReg r v).respond _
    | elem b i =>
      obtain ⟨hmem, hflags, hrecord⟩ := h
      exact ⟨wf_writeElem v hmem (reach_elem hl), hflags, hrecord⟩

/-- The range lies in its buffers, and a range of taps leaves out the last element of `TAP` (20_memory R72). -/
def ActiveRange.Fits : ActiveRange → Prop
  | .nothing => True
  | .points n => n ≤ Config.fftMaxLen
  | .taps n => n ≤ Config.tapsMax

theorem State.transformRange_fits (s : State) : s.transformRange.Fits := by
  unfold State.transformRange
  split
  · trivial
  · rename_i hgood
    exact (goodLength_bounds (Bool.eq_false_iff.mpr hgood)).2

theorem State.designRange_fits (s : State) (needsF2 f2v : Bool) : (s.designRange needsF2 f2v).Fits := by
  unfold State.designRange
  split
  · trivial
  · rename_i hcheck
    exact State.tapCount_le_of_designCheck hcheck

theorem State.activeRange_fits (s : State) : s.activeRange.Fits := by
  unfold State.activeRange
  cases decode s.lastcmd with
  | illegal why => trivial
  | command i =>
    cases i with
    | fft => exact s.transformRange_fits
    | ifft => exact s.transformRange_fits
    | npot => trivial
    | _ => exact s.designRange_fits _ _

/-- An abandoned command makes only elements inside the buffers unspecified (70_reset_and_hazards R192). -/
theorem State.wf_abandon {s : State} (h : Memory.wf s.mem = true) : Memory.wf s.abandon.mem = true := by
  have hfits := s.activeRange_fits
  rcases abandon_cases s with ⟨-, h'⟩ | ⟨n, -, hrange, h'⟩ | ⟨n, -, hrange, h'⟩ <;> rw [h']
  · exact h
  · rw [hrange] at hfits
    exact wf_havoc (wf_havoc (b := .re) h hfits) (b := .im) hfits
  · rw [hrange] at hfits
    exact wf_havoc h (Nat.le_succ_of_le hfits)

theorem State.Inv.hostStep {s : State} (h : s.Inv) (a : HostAction) : (s.hostStep a).Inv := by
  cases a with
  | read width o => exact h.portRead width o
  | write width o v => exact h.portWrite width o v
  | reset => exact State.inv_of_noRecord (State.wf_abandon h.1) nofun rfl rfl rfl

/-- Settles O14, by the kinds of step: the engine's step needs only canonical memory, a pause changes nothing,
and the host's next action is taken in a state that differs from `s` in the script alone. -/
theorem invariantKeptByEveryStep : Obligations.InvariantKeptByEveryStep := by
  intro s t h hstep
  rcases step_cases hstep with ⟨-, -, hengine⟩ | ⟨-, -, rfl⟩ | ⟨turn, rest, -, -, rfl⟩
  · exact (executes_of_engineStep hengine).inv h.1
  · exact h
  · exact State.Inv.hostStep (s := { s with script := rest }) h turn.action

end Sys2Proof.Machine
end

section
/-! SUPPORT. The host port (10_state R20 to R23, R48; 20_memory R61 to R67): what stands at each offset, what a
read answers, and what a write to a register leaves. -/

namespace Sys2Proof.Machine

/-! ### The address map -/

theorem elemOffset_toNat {b : Buffer} {i : Nat} (hi : i < bufferDepth b) :
    (BitVec.ofNat 25 (elemOffset b i)).toNat = elemOffset b i := by
  have hbounds := elemOffset_bounds b hi
  rw [BitVec.toNat_ofNat]
  omega

/-- The ranges of the buffers do not overlap (20_memory R61). -/
theorem inBuffer_elemOffset {b c : Buffer} {i : Nat} (hi : i < bufferDepth b) :
    inBuffer c (elemOffset b i) = decide (c = b) := by
  refine decide_eq_decide.mpr ?_
  cases b <;> cases c <;>
    simp only [elemOffset, bufferBase, bufferDepth, Config.fftMaxLen, Config.tapDepth, reduceCtorEq, iff_true,
      iff_false] at * <;>
    omega

theorem locate_elemOffset {b : Buffer} {i : Nat} (hi : i < bufferDepth b) :
    locate (elemOffset b i) = some (.elem b i) := by
  have hindex : (elemOffset b i - bufferBase b) / 8 = i := by unfold elemOffset; omega
  unfold locate
  simp only [inBuffer_elemOffset hi]
  cases b <;> simp [hindex]

/-- Element `i` of a buffer stands at its window offset (20_memory R62). -/
theorem reach_elemOffset {b : Buffer} {i : Nat} (hi : i < bufferDepth b) :
    reach 8 (BitVec.ofNat 25 (elemOffset b i)) = some (.elem b i) := by
  have haligned : elemOffset b i % 8 = 0 := by
    unfold elemOffset
    cases b <;> simp only [bufferBase] <;> omega
  unfold reach
  rw [elemOffset_toNat hi, if_pos ⟨rfl, haligned⟩, locate_elemOffset hi]

/-- Every register stands at its offset (10_state R20). -/
theorem reach_registerOffset (r : Reg) : reach 8 (BitVec.ofNat 25 (registerOffset r)) = some (.reg r) := by
  cases r <;> decide

/-- Settles O48: the offsets that the statement writes out are those of `registerOffset` and `elemOffset`. -/
theorem addressMap : Obligations.AddressMap :=
  ⟨⟨reach_registerOffset .id, reach_registerOffset .cmd, reach_registerOffset .status, reach_registerOffset .ie,
      reach_registerOffset .len, reach_registerOffset .npotIn, reach_registerOffset .npotOut,
      reach_registerOffset .taps, reach_registerOffset .srate, reach_registerOffset .f1,
      reach_registerOffset .f2, reach_registerOffset .kbeta, reach_registerOffset .lastcmd,
      reach_registerOffset .limits⟩,
    reach_registerOffset, fun _ hi => reach_elemOffset (b := .re) hi,
    fun _ hi => reach_elemOffset (b := .im) hi, fun _ hi => reach_elemOffset (b := .tap) hi⟩

/-! ### `STATUS` -/

theorem errorNumber_lt (e : ErrCode) : errorNumber e < 16 := by
  cases e <;> decide

/-- The number that `STATUS` reads as, cut at the places of its fields (10_state R23). -/
theorem statusWord_toNat_fields (s : State) :
    s.statusWord.toNat / 2 ^ 0 % 2 = s.busy.toNat ∧ s.statusWord.toNat / 2 ^ 1 % 2 = s.done.toNat ∧
    s.statusWord.toNat / 2 ^ 2 % 2 = s.err.toNat ∧ s.statusWord.toNat / 2 ^ 3 % 2 = s.ovr.toNat ∧
    s.statusWord.toNat / 2 ^ 8 % 2 = s.wns.toNat ∧
    s.statusWord.toNat / 2 ^ 4 % 2 ^ 4 = errorNumber s.errcode ∧ s.statusWord.toNat / 2 ^ 9 % 2 ^ 55 = 0 := by
  have hcode := errorNumber_lt s.errcode
  have hbusy := s.busy.toNat_lt
  have hdone := s.done.toNat_lt
  have herr := s.err.toNat_lt
  have hovr := s.ovr.toNat_lt
  have hwns := s.wns.toNat_lt
  simp only [State.statusWord, BitVec.toNat_ofNat, Nat.shiftLeft_eq]
  omega

theorem getLsbD_of_toNat {w : Word} {k : Nat} {b : Bool} (h : w.toNat / 2 ^ k % 2 = b.toNat) :
    w.getLsbD k = b := by
  rw [BitVec.getLsbD, Nat.testBit_eq_decide_div_mod_eq, h]
  cases b <;> rfl

theorem extractLsb'_of_toNat {w : Word} {k n x : Nat} (h : w.toNat / 2 ^ k % 2 ^ n = x) :
    w.extractLsb' k n = BitVec.ofNat n x := by
  apply BitVec.eq_of_toNat_eq
  rw [BitVec.extractLsb'_toNat, BitVec.toNat_ofNat, Nat.shiftRight_eq_div_pow, ← h, Nat.mod_mod]

theorem statusWord_flags (s : State) :
    s.statusWord.getLsbD 0 = s.busy ∧ s.statusWord.getLsbD 1 = s.done ∧ s.statusWord.getLsbD 2 = s.err ∧
      s.statusWord.getLsbD 3 = s.ovr ∧ s.statusWord.getLsbD 8 = s.wns := by
  obtain ⟨hbusy, hdone, herr, hovr, hwns, -, -⟩ := statusWord_toNat_fields s
  exact ⟨getLsbD_of_toNat hbusy, getLsbD_of_toNat hdone, getLsbD_of_toNat herr, getLsbD_of_toNat hovr,
    getLsbD_of_toNat hwns⟩

theorem statusWord_code (s : State) :
    s.statusWord.extractLsb' 4 4 = BitVec.ofNat 4 (errorNumber s.errcode) := by
  obtain ⟨-, -, -, -, -, hcode, -⟩ := statusWord_toNat_fields s
  exact extractLsb'_of_toNat hcode

theorem statusWord_reserved (s : State) : s.statusWord.extractLsb' 9 55 = 0 := by
  obtain ⟨-, -, -, -, -, -, hreserved⟩ := statusWord_toNat_fields s
  exact extractLsb'_of_toNat hreserved

/-- Settles O52: each field has its place in the number of the word. -/
theorem statusWordLayout : Obligations.StatusWordLayout := by
  intro s
  have hcode := statusWord_code s
  refine ⟨statusWord_flags s, ?_, statusWord_reserved s, ?_, ?_, ?_, ?_, ?_⟩
  · rw [hcode, BitVec.toNat_ofNat, Nat.mod_eq_of_lt (errorNumber_lt s.errcode)]
  all_goals
    intro h
    rw [hcode, h]
    rfl

/-- The fields of `STATUS` make up the word. -/
theorem eq_of_statusFields {w w' : Word} (h0 : w.getLsbD 0 = w'.getLsbD 0) (h1 : w.getLsbD 1 = w'.getLsbD 1)
    (h2 : w.getLsbD 2 = w'.getLsbD 2) (h3 : w.getLsbD 3 = w'.getLsbD 3) (h8 : w.getLsbD 8 = w'.getLsbD 8)
    (hcode : w.extractLsb' 4 4 = w'.extractLsb' 4 4) (hreserved : w.extractLsb' 9 55 = w'.extractLsb' 9 55) :
    w = w' := by
  apply BitVec.eq_of_getLsbD_eq
  intro i hi
  by_cases hhigh : 9 ≤ i
  · have h := congrArg (BitVec.getLsbD · (i - 9)) hreserved
    simpa [BitVec.getLsbD_extractLsb', show i - 9 < 55 by omega, Nat.add_sub_cancel' hhigh] using h
  · by_cases hmiddle : 4 ≤ i ∧ i < 8
    · have h := congrArg (BitVec.getLsbD · (i - 4)) hcode
      simpa [BitVec.getLsbD_extractLsb', show i - 4 < 4 by omega, Nat.add_sub_cancel' hmiddle.1] using h
    · obtain rfl | rfl | rfl | rfl | rfl : i = 0 ∨ i = 1 ∨ i = 2 ∨ i = 3 ∨ i = 8 := by omega
      · exact h0
      · exact h1
      · exact h2
      · exact h3
      · exact h8

/-- Clearing bits of a mask leaves the bits where the mask is 0. -/
theorem extractLsb'_clear (w v : Word) {mask : Word} {k n : Nat} (hmask : mask.extractLsb' k n = 0) :
    (w &&& ~~~(v &&& mask)).extractLsb' k n = w.extractLsb' k n := by
  apply BitVec.eq_of_getLsbD_eq
  intro j hj
  have hbit : mask.getLsbD (k + j) = false := by
    simpa [BitVec.getLsbD_extractLsb', hj] using congrArg (BitVec.getLsbD · j) hmask
  simp only [BitVec.getLsbD_extractLsb', BitVec.getLsbD_and, BitVec.getLsbD_not, hbit, Bool.and_false,
    Bool.not_false, Bool.and_true]
  cases hw : w.getLsbD (k + j) with
  | false => rw [Bool.false_and]
  | true => rw [decide_eq_true (BitVec.lt_of_getLsbD hw), Bool.and_self]

/-- Bits 1 and 3 of the value written clear `DONE` and `OVR`, and no other bit of `STATUS` changes
(10_state R23). -/
theorem statusWord_clearStatus (s : State) (v : Word) :
    (s.clearStatus v).statusWord = s.statusWord &&& ~~~(v &&& 0xA) := by
  obtain ⟨hbusy, hdone, herr, hovr, hwns⟩ := statusWord_flags s
  obtain ⟨hbusy', hdone', herr', hovr', hwns'⟩ := statusWord_flags (s.clearStatus v)
  apply eq_of_statusFields
  case h0 | h1 | h2 | h3 | h8 =>
    simp only [BitVec.getLsbD_and, BitVec.getLsbD_not, hbusy, hbusy', hdone, hdone', herr, herr', hovr, hovr', hwns,
      hwns']
    simp [State.clearStatus]
  · rw [extractLsb'_clear _ _ rfl, statusWord_code, statusWord_code]
    rfl
  · rw [extractLsb'_clear _ _ rfl, statusWord_reserved, statusWord_reserved]

/-! ### Writes to registers -/

theorem hostStep_write_reg {s : State} {o : Offset} {r : Reg} (hs : s.busy = false)
    (hr : reach 8 o = some (.reg r)) (v : Word) :
    s.hostStep (.write 8 o v) = (s.writeReg r v).respond .ok := by
  simp [State.hostStep, State.portWrite, hr, hs, State.writeLocation]

theorem bitZero_zeroExtend (v : Word) : BitVec.ofNat 64 (v.getLsbD 0).toNat = v &&& 1 := by
  rw [show v &&& 1 = (BitVec.ofBool (v.getLsbD 0)).setWidth 64 from BitVec.and_one_eq_setWidth_ofBool_getLsbD]
  cases v.getLsbD 0 <;> rfl

/-- The integer registers keep bits 31:0 (10_state R31 to R34, R41). -/
theorem truncate_zeroExtend (v : Word) : (v.truncate 32).zeroExtend 64 = v &&& 0xFFFFFFFF := by
  apply BitVec.eq_of_toNat_eq
  have hmask : (0xFFFFFFFF : Word).toNat = 2 ^ 32 - 1 := rfl
  rw [BitVec.toNat_and, hmask, Nat.and_two_pow_sub_one_eq_mod, BitVec.toNat_setWidth, BitVec.toNat_setWidth]
  omega

/-- Settles O51: a write through the port is the write to the register that stands at the offset. -/
theorem registerWriteReadsBack : Obligations.RegisterWriteReadsBack := by
  intro s v
  refine ⟨rfl, rfl, bitZero_zeroExtend v, truncate_zeroExtend v, truncate_zeroExtend v, rfl,
    truncate_zeroExtend v, rfl, rfl, rfl, rfl, rfl, rfl, statusWord_clearStatus s v, fun hs => ?_⟩
  have hwrite := fun r => hostStep_write_reg hs (reach_registerOffset r) v
  rw [← BitVec.setWidth_eq_extractLsb' (by decide)]
  exact ⟨hwrite .id, hwrite .cmd, hwrite .status, hwrite .ie, hwrite .len, hwrite .npotIn, hwrite .npotOut,
    hwrite .taps, hwrite .srate, hwrite .f1, hwrite .f2, hwrite .kbeta, hwrite .lastcmd, hwrite .limits⟩

/-! ### Reads -/

theorem hostStep_read_reg {o : Offset} {r : Reg} (hr : reach 8 o = some (.reg r)) (s : State) :
    s.hostStep (.read 8 o) = s.respond (.value (s.readReg r)) := by
  simp [State.hostStep, State.portRead, hr]

theorem hostStep_read_elem_busy {s : State} {width : Nat} {o : Offset} {b : Buffer} {i : Nat}
    (hs : s.busy = true) (hr : reach width o = some (.elem b i)) : s.hostStep (.read width o)
      = State.respond { s with draws := s.draws + 1 } (.value (Config.freeWord s.draws)) := by
  simp only [State.hostStep, State.portRead, hr, if_pos hs]

theorem hostStep_read_elem_idle {s : State} {width : Nat} {o : Offset} {b : Buffer} {i : Nat}
    (hs : s.busy = false) (hr : reach width o = some (.elem b i)) :
    s.hostStep (.read width o) = s.respond (.value (readElem s.mem b i)) := by
  simp only [State.hostStep, State.portRead, hr, if_neg (Bool.eq_false_iff.mp hs)]

/-- No read looks at the port's last answer. -/
theorem portRead_respond (s : State) (a : PortAnswer) (width : Nat) (o : Offset) :
    (s.respond a).portRead width o = s.portRead width o := rfl

/-- Every read but one of a buffer while busy leaves nothing but its answer (20_memory R66). -/
theorem portRead_eq_respond {s : State} {width : Nat} {o : Offset}
    (h : s.busy = false ∨ ∀ b i, reach width o ≠ some (.elem b i)) :
    ∃ a, s.portRead width o = s.respond a := by
  rcases portRead_cases s width o with ⟨-, h'⟩ | ⟨r, -, h'⟩ | ⟨b, i, hr, hs, -⟩ | ⟨b, i, -, -, h'⟩
  · exact ⟨_, h'⟩
  · exact ⟨_, h'⟩
  · rcases h with hidle | hne
    · exact absurd (hs.symm.trans hidle) (by decide)
    · exact absurd hr (hne b i)
  · exact ⟨_, h'⟩

theorem ofNat_toNat_bool (b : Bool) : BitVec.ofNat 64 b.toNat = if b = true then 1 else 0 := by
  cases b <;> rfl

/-- Settles O53: what a read answers is decided by what stands at the offset, and only a buffer read while busy
draws a free value. -/
theorem readsHaveNoSideEffect : Obligations.ReadsHaveNoSideEffect := by
  intro s width o
  have hread : ∀ r, (s.hostStep (.read 8 (BitVec.ofNat 25 (registerOffset r)))).answer
      = some (.value (s.readReg r)) := fun r => by rw [hostStep_read_reg (reach_registerOffset r)]; rfl
  refine ⟨fun h => ?_, fun _ _ => hostStep_read_elem_busy, fun _ _ => hostStep_read_elem_idle, hread .id,
    hread .cmd, hread .status, ?_, hread .len, hread .npotIn, hread .npotOut, hread .taps, hread .srate,
    hread .f1, hread .f2, hread .kbeta, hread .lastcmd, hread .limits⟩
  · obtain ⟨a, ha⟩ := portRead_eq_respond h
    simp only [State.hostStep, ha, portRead_respond]
    exact ⟨rfl, trivial⟩
  · rw [← ofNat_toNat_bool]
    exact hread .ie

/-! ### The interrupt output -/

theorem portRead_irq (s : State) (width : Nat) (o : Offset) : (s.portRead width o).irq = s.irq := by
  rcases portRead_cases s width o with ⟨-, h⟩ | ⟨r, -, h⟩ | ⟨b, i, -, -, h⟩ | ⟨b, i, -, -, h⟩ <;> rw [h] <;> rfl

/-- Settles O54: what each write and each completion makes of `DONE` and `IE`. -/
theorem interruptRisesAndFalls : Obligations.InterruptRisesAndFalls := by
  intro s v
  have hwrite := fun hs r => hostStep_write_reg (s := s) hs (reach_registerOffset r) v
  refine ⟨Bool.and_eq_true_iff, fun hs => ?_, fun hs hv => ?_, fun hs hv => ?_, rfl, portRead_irq s 8,
    fun t hstep => ?_⟩
  · exact congrArg State.irq (hwrite hs .cmd)
  · refine (congrArg State.irq (hwrite hs .status)).trans ?_
    change (s.done && !v.getLsbD 1 && s.ie) = false
    rw [hv, Bool.not_true, Bool.and_false, Bool.false_and]
  · refine (congrArg State.irq (hwrite hs .ie)).trans ?_
    change (s.done && v.getLsbD 0) = false
    rw [hv, Bool.and_false]
  · obtain ⟨hdone, hie⟩ := (executes_of_engineStep hstep).done_ie
    simp [State.irq, hdone, hie]

end Sys2Proof.Machine
end

section
/-! SUPPORT. The buffers and the host port (20_memory R61 to R67): what a write to an element leaves, where the
window lies, and that no write while busy disturbs the running command (R70, R73; 60_exceptions R181). -/

namespace Sys2Proof.Machine

/-! ### Writes to elements -/

/-- Settles O50: an element is a word at its offset, and the bytes of a written word are its own. -/
theorem elementsAreLittleEndian : Obligations.ElementsAreLittleEndian :=
  fun m b i _ w hk => readByte_writeWord_inside m (elemOffset b i) w hk

theorem hostStep_write_elem {s : State} {width : Nat} {o : Offset} {b : Buffer} {i : Nat} (hs : s.busy = false)
    (hr : reach width o = some (.elem b i)) (v : Word) :
    s.hostStep (.write width o v) = State.respond { s with mem := writeElem s.mem b i v } .ok := by
  simp [State.hostStep, State.portWrite, hr, hs, State.writeLocation]

/-- Settles O49: the write is one `writeElem`, and the engine is still idle when the read comes. -/
theorem bufferWriteReadsBack : Obligations.BufferWriteReadsBack := by
  intro s o b i v hs hr
  rw [hostStep_write_elem hs hr v]
  refine ⟨?_, rfl, fun a ha => readByte_writeWord_outside s.mem v ha⟩
  have hread := hostStep_read_elem_idle (s := State.respond { s with mem := writeElem s.mem b i v } .ok) hs hr
  rw [hread, State.respond_answer, State.respond_mem, readElem_writeElem_same]

/-! ### The window -/

/-- The window is as long as the offsets reach (00_scope R6; 20_memory R61). -/
theorem offset_lt_windowBytes (o : Offset) : o.toNat < Config.windowBytes :=
  o.isLt

theorem windowOffset_inside (o : Offset) : windowOffset (Config.base + o.toNat) = some o := by
  have hlt := offset_lt_windowBytes o
  unfold windowOffset
  rw [if_pos (by omega), Nat.add_sub_cancel_left, BitVec.ofNat_toNat, BitVec.setWidth_eq]

theorem windowOffset_outside {a : Nat} (h : a < Config.base ∨ Config.base + Config.windowBytes ≤ a) :
    windowOffset a = none :=
  if_neg (by omega)

/-- Settles O57: both sides of the window's one test, and `BASE` is eight times its index. -/
theorem windowDecodesBase : Obligations.WindowDecodesBase :=
  ⟨Nat.mul_mod_right 8 Config.baseIndex, windowOffset_inside, fun _ => windowOffset_outside⟩

/-! ### Writes while busy -/

/-- What a write while busy can touch: `OVR` and the port's answer. -/
def State.withPort (s : State) (ovr : Bool) (answer : Option PortAnswer) : State :=
  { s with ovr := ovr, answer := answer }

/-- A write while busy touches `OVR` and the answer alone, and does not clear `OVR` (60_exceptions R180,
R181). -/
theorem hostStep_write_busy {s : State} (hs : s.busy = true) (width : Nat) (o : Offset) (v : Word) :
    ∃ ovr answer, s.hostStep (.write width o v) = s.withPort ovr answer ∧ (s.ovr = true → ovr = true) := by
  rcases portWrite_cases s width o v with ⟨-, h⟩ | ⟨l, -, -, h⟩ | ⟨l, -, hidle, -⟩
  · exact ⟨s.ovr, some .busError, h, id⟩
  · exact ⟨true, some .ok, h, fun _ => rfl⟩
  · exact absurd (hs.symm.trans hidle) (by decide)

section
variable (s : State) (ovr : Bool) (answer : Option PortAnswer)

theorem runTransform_withPort (f : Nat → List (F × F) → List (F × F)) :
    runTransform f (s.withPort ovr answer) = (runTransform f s).withPort ovr answer := by
  rcases runTransform_cases f s with ⟨hbad, h⟩ | ⟨hgood, h⟩ <;> rw [h]
  · exact if_pos hbad
  · exact if_neg (Bool.eq_false_iff.mp hgood)

theorem finishDesign_withPort (norm : Bool) (fref : F) (taps : List F) :
    (s.withPort ovr answer).finishDesign norm fref taps
      = (s.finishDesign norm fref taps).withPort ovr answer := by
  obtain ⟨out, warn, -, hout⟩ := State.finishDesign_uniform s.sampleRate fref norm taps
  rw [hout s rfl, hout (s.withPort ovr answer) rfl]
  rfl

theorem runDesign_withPort (needsF2 : Bool) (win : Window) (norm f2v kbv : Bool) (ideal : F → Nat → F)
    (fref : F) :
    (s.withPort ovr answer).runDesign needsF2 win norm f2v kbv ideal fref
      = (s.runDesign needsF2 win norm f2v kbv ideal fref).withPort ovr answer := by
  have hcheck : (s.withPort ovr answer).designCheck needsF2 f2v = s.designCheck needsF2 f2v := rfl
  simp only [State.runDesign, hcheck]
  cases s.designCheck needsF2 f2v with
  | some e => rfl
  | none => exact finishDesign_withPort s ovr answer norm fref _

end

/-- No command looks at `OVR` or at the port's last answer, and none changes them. -/
theorem exec_withPort {i : Instr} {s t : State} (h : exec i s = .next t) (ovr : Bool)
    (answer : Option PortAnswer) :
    exec i (s.withPort ovr answer) = .next (t.withPort ovr answer) := by
  cases i with
  | npot => cases h; rfl
  | fft => cases h; exact congrArg _ (runTransform_withPort s ovr answer _)
  | ifft => cases h; exact congrArg _ (runTransform_withPort s ovr answer _)
  | _ => cases h; exact congrArg _ (runDesign_withPort s ovr answer _ _ _ _ _ _ _)

theorem engineStep_withPort {s t : State} (h : engineStep s = .next t) (ovr : Bool)
    (answer : Option PortAnswer) :
    engineStep (s.withPort ovr answer) = .next (t.withPort ovr answer) := by
  have hlastcmd : (s.withPort ovr answer).lastcmd = s.lastcmd := rfl
  rcases engineStep_cases h with ⟨i, hd, hexec⟩ | ⟨why, hd, rfl⟩ <;> simp only [engineStep, hlastcmd, hd]
  · exact exec_withPort hexec ovr answer
  · rfl

/-- The execute step leaves `OVR` (60_exceptions R177). -/
theorem Executes.ovr {s t : State} (h : Executes s t) : t.ovr = s.ovr := by
  cases h <;> rfl

/-- Settles O46: the write touches `OVR` and the answer alone, and the execute step commutes with that. -/
theorem busyWriteDoesNotDisturbCommand : Obligations.BusyWriteDoesNotDisturbCommand := by
  intro s t width o v hs hstep
  obtain ⟨ovr, answer, hwrite, hovr⟩ := hostStep_write_busy hs width o v
  refine ⟨t.withPort ovr answer, ?_, rfl, fun ht => hovr ?_⟩
  · rw [hwrite]
    exact engineStep_withPort hstep ovr answer
  · rwa [← (executes_of_engineStep hstep).ovr]

end Sys2Proof.Machine
end

section
/-! SUPPORT. Decoding inverts encoding (30_encoding R81 to R91). Both are tied to the fields of a word: the
fields make up the word, the words that decode have well-formed fields, and well-formed fields are those of a
command. The command words are counted by counting the commands. -/

namespace Sys2Proof

/-! ### The fields make up the word -/

theorem getLsbD_eq_of_extractLsb' {w w' : Word} {lo n i : Nat} (h : w.extractLsb' lo n = w'.extractLsb' lo n)
    (hlo : lo ≤ i) (hhi : i < lo + n) : w.getLsbD i = w'.getLsbD i := by
  have hbit := congrArg (BitVec.getLsbD · (i - lo)) h
  simpa [BitVec.getLsbD_extractLsb', show i - lo < n by omega, Nat.add_sub_cancel' hlo] using hbit

/-- The ten fields cover all 64 bits (30_encoding R81). -/
theorem commandFields_injective : Function.Injective commandFields := by
  intro w w' h
  simp only [commandFields, CommandFields.mk.injEq] at h
  obtain ⟨hopc, hinv, hshape, h7, hwin, h11, hnorm, hf2v, hkbv, hhigh⟩ := h
  apply BitVec.eq_of_getLsbD_eq
  intro i hi
  obtain hi | rfl | hi | rfl | hi | rfl | rfl | rfl | rfl | hi : i < 4 ∨ i = 4 ∨ (5 ≤ i ∧ i < 7) ∨ i = 7 ∨
    (8 ≤ i ∧ i < 11) ∨ i = 11 ∨ i = 12 ∨ i = 13 ∨ i = 14 ∨ 15 ≤ i := by omega
  · exact getLsbD_eq_of_extractLsb' hopc (Nat.zero_le i) (by omega)
  · exact hinv
  · exact getLsbD_eq_of_extractLsb' hshape hi.1 hi.2
  · exact h7
  · exact getLsbD_eq_of_extractLsb' hwin hi.1 hi.2
  · exact h11
  · exact hnorm
  · exact hf2v
  · exact hkbv
  · exact getLsbD_eq_of_extractLsb' hhigh hi (by omega)

theorem getLsbD_of_bits_eq_zero {w : Word} {lo n i : Nat} (h : bits w lo n = 0) (hlo : lo ≤ i)
    (hhi : i < lo + n) : w.getLsbD i = false := by
  have hzero : w.extractLsb' lo n = (0 : Word).extractLsb' lo n := by
    apply BitVec.eq_of_toNat_eq
    simpa [bits] using h
  simpa using getLsbD_eq_of_extractLsb' hzero hlo hhi

theorem extractLsb'_of_bits_eq_zero {w : Word} {lo n lo' n' : Nat} (h : bits w lo n = 0) (hlo : lo ≤ lo')
    (hhi : lo' + n' ≤ lo + n) : w.extractLsb' lo' n' = 0 := by
  apply BitVec.eq_of_getLsbD_eq
  intro j hj
  simp [BitVec.getLsbD_extractLsb', getLsbD_of_bits_eq_zero h (i := lo' + j) (by omega) (by omega)]

/-! ### Words that decode have well-formed fields -/

/-- Bits 14:5 hold `SHAPE`, `WIN` and the three modifiers (30_encoding R82, R83). -/
theorem designClear_of_bits {w : Word} {lo n : Nat} (h : bits w lo n = 0) (hlo : lo ≤ 5) (hhi : 15 ≤ lo + n) :
    (commandFields w).designClear = true := by
  have hshape : (commandFields w).shape = 0 := extractLsb'_of_bits_eq_zero h (by omega) (by omega)
  have hwin : (commandFields w).win = 0 := extractLsb'_of_bits_eq_zero h (by omega) (by omega)
  have hnorm : (commandFields w).norm = false := getLsbD_of_bits_eq_zero h (by omega) (by omega)
  have hf2v : (commandFields w).f2v = false := getLsbD_of_bits_eq_zero h (by omega) (by omega)
  have hkbv : (commandFields w).kbv = false := getLsbD_of_bits_eq_zero h (by omega) (by omega)
  rw [CommandFields.designClear, hshape, hwin, hnorm, hf2v, hkbv]
  rfl

theorem le_four_of_decodeWindow {c : Nat} {win : Window} (h : decodeWindow c = some win) : c ≤ 4 := by
  unfold decodeWindow at h
  split at h
  case h_6 => cases h
  all_goals decide

theorem reservedClear_of_bits {w : Word} (hhigh : bits w 15 49 = 0)
    (hbits : ¬(w.getLsbD 7 || w.getLsbD 11) = true) : (commandFields w).reservedClear = true := by
  obtain ⟨h7, h11⟩ : (commandFields w).bit7 = false ∧ (commandFields w).bit11 = false := by
    simpa [commandFields] using hbits
  have hhigh : (commandFields w).high = 0 := extractLsb'_of_bits_eq_zero hhigh (Nat.le_refl _) (Nat.le_refl _)
  rw [CommandFields.reservedClear, h7, h11, hhigh]
  rfl

/-- Format X (30_encoding R82). -/
theorem formatOk_of_transform {w : Word} (hopc : bits w 0 4 = 1) (hclear : bits w 5 10 = 0) :
    (commandFields w).formatOk = true := by
  have hopc : (commandFields w).opc.toNat = 1 := hopc
  rw [CommandFields.formatOk, hopc]
  exact designClear_of_bits hclear (by omega) (by omega)

/-- Format P (30_encoding R83). -/
theorem formatOk_of_npot {w : Word} (hopc : bits w 0 4 = 2) (hclear : bits w 4 11 = 0) :
    (commandFields w).formatOk = true := by
  have hopc : (commandFields w).opc.toNat = 2 := hopc
  have hinv : (commandFields w).inv = false := getLsbD_of_bits_eq_zero hclear (by omega) (by omega)
  rw [CommandFields.formatOk, hopc, hinv, designClear_of_bits hclear (by omega) (by omega)]
  rfl

/-- The format of the design commands (30_encoding R84, R87). -/
theorem formatOk_of_design {w : Word} {win : Window} (hopc : bits w 0 4 = 3) (hinv : ¬w.getLsbD 4 = true)
    (hwin : decodeWindow (bits w 8 3) = some win) : (commandFields w).formatOk = true := by
  have hopc : (commandFields w).opc.toNat = 3 := hopc
  have hinv : (commandFields w).inv = false := Bool.eq_false_of_not_eq_true hinv
  have hwin : (commandFields w).windowKnown = true := decide_eq_true (le_four_of_decodeWindow hwin)
  rw [CommandFields.formatOk, hopc, hinv, hwin]
  rfl

/-- The tests of decoding are the checks of the fields (30_encoding R90). -/
theorem wellFormed_of_decode {w : Word} {i : Instr} (h : decode w = .command i) :
    (commandFields w).wellFormed = true := by
  unfold decode at h
  split at h
  · cases h
  rename_i hhigh
  split at h
  · cases h
  rename_i hbits
  suffices hformat : (commandFields w).formatOk = true by
    rw [CommandFields.wellFormed, reservedClear_of_bits (not_not.mp hhigh) hbits, hformat]
    rfl
  split at h
  · rename_i hopc
    split at h
    · cases h
    · rename_i hclear
      exact formatOk_of_transform hopc (not_not.mp hclear)
  · rename_i hopc
    split at h
    · cases h
    · rename_i hclear
      exact formatOk_of_npot hopc (not_not.mp hclear)
  · rename_i hopc
    split at h
    · cases h
    · rename_i hinv
      split at h
      · cases h
      · rename_i win hwin
        exact formatOk_of_design hopc hinv hwin
  · cases h

/-! ### Well-formed fields are those of a command -/

theorem exists_code {c : BitVec 3} (h : c.toNat ≤ 4) : ∃ win : Window, win.code = c := by
  obtain rfl | rfl | rfl | rfl | rfl : c = 0 ∨ c = 1 ∨ c = 2 ∨ c = 3 ∨ c = 4 := by bv_omega
  exacts [⟨.rect, rfl⟩, ⟨.hann, rfl⟩, ⟨.hamming, rfl⟩, ⟨.blackman, rfl⟩, ⟨.kaiser, rfl⟩]

/-- Each `SHAPE` names a design command (30_encoding R86). -/
theorem fields_decodeShape (shape : BitVec 2) (win : Window) (norm f2v kbv : Bool) :
    (decodeShape shape.toNat win norm f2v kbv).fields = .design shape win norm f2v kbv := by
  obtain rfl | rfl | rfl | rfl : shape = 0 ∨ shape = 1 ∨ shape = 2 ∨ shape = 3 := by bv_omega
  all_goals rfl

theorem eq_plain {f : CommandFields} (hreserved : f.reservedClear = true) (hclear : f.designClear = true) :
    f = .plain f.opc f.inv := by
  simp only [CommandFields.reservedClear, CommandFields.designClear, Bool.and_eq_true, Bool.not_eq_true',
    beq_iff_eq] at hreserved hclear
  obtain ⟨⟨h7, h11⟩, hhigh⟩ := hreserved
  obtain ⟨⟨⟨⟨hshape, hwin⟩, hnorm⟩, hf2v⟩, hkbv⟩ := hclear
  cases f
  simp_all [CommandFields.plain]

theorem eq_design {f : CommandFields} {win : Window} (hreserved : f.reservedClear = true) (hopc : f.opc = 3)
    (hinv : f.inv = false) (hwin : win.code = f.win) : f = .design f.shape win f.norm f.f2v f.kbv := by
  simp only [CommandFields.reservedClear, Bool.and_eq_true, Bool.not_eq_true', beq_iff_eq] at hreserved
  obtain ⟨⟨h7, h11⟩, hhigh⟩ := hreserved
  cases f
  simp_all [CommandFields.design]

theorem exists_fields_of_wellFormed {f : CommandFields} (h : f.wellFormed = true) :
    ∃ i : Instr, i.fields = f := by
  obtain ⟨hreserved, hformat⟩ : f.reservedClear = true ∧ f.formatOk = true := by
    simpa [CommandFields.wellFormed] using h
  unfold CommandFields.formatOk at hformat
  split at hformat
  · rename_i hopc
    have hopc : f.opc = 1 := BitVec.eq_of_toNat_eq hopc
    rw [eq_plain hreserved hformat, hopc]
    cases f.inv
    exacts [⟨.fft, rfl⟩, ⟨.ifft, rfl⟩]
  · rename_i hopc
    have hopc : f.opc = 2 := BitVec.eq_of_toNat_eq hopc
    obtain ⟨hinv, hclear⟩ : f.inv = false ∧ f.designClear = true := by simpa using hformat
    rw [eq_plain hreserved hclear, hopc, hinv]
    exact ⟨.npot, rfl⟩
  · rename_i hopc
    have hopc : f.opc = 3 := BitVec.eq_of_toNat_eq hopc
    obtain ⟨hinv, hwin⟩ : f.inv = false ∧ f.win.toNat ≤ 4 := by
      simpa [CommandFields.windowKnown] using hformat
    obtain ⟨win, hcode⟩ := exists_code hwin
    rw [eq_design hreserved hopc hinv hcode]
    exact ⟨_, fields_decodeShape f.shape win f.norm f.f2v f.kbv⟩
  · cases hformat

/-! ### Decode and encode -/

theorem commandFields_encode (i : Instr) : commandFields (encode i) = i.fields := by
  cases i with
  | fft => exact Laws.WordFields.fft.1
  | ifft => exact Laws.WordFields.ifft.1
  | npot => exact Laws.WordFields.npot.1
  | firlp win norm f2v kbv => exact (Laws.WordFields.firlp win norm f2v kbv).1
  | firhp win norm f2v kbv => exact (Laws.WordFields.firhp win norm f2v kbv).1
  | firbp win norm f2v kbv => exact (Laws.WordFields.firbp win norm f2v kbv).1
  | firbs win norm f2v kbv => exact (Laws.WordFields.firbs win norm f2v kbv).1

theorem decodeWindow_code (win : Window) : decodeWindow win.code.toNat = some win := by
  cases win <;> rfl

/-- A word with the fields of a design command decodes to it (30_encoding R84, R86). -/
theorem decode_of_design {w : Word} {shape : BitVec 2} {win : Window} {norm f2v kbv : Bool}
    (h : commandFields w = .design shape win norm f2v kbv) :
    decode w = .command (decodeShape shape.toNat win norm f2v kbv) := by
  simp only [commandFields, CommandFields.design, CommandFields.mk.injEq] at h
  obtain ⟨hopc, hinv, hshape, h7, hwin, h11, hnorm, hf2v, hkbv, hhigh⟩ := h
  simp only [decode, bits, hopc, hinv, hshape, h7, hwin, h11, hnorm, hf2v, hkbv, hhigh, decodeWindow_code]
  rfl

theorem decode_encode (i : Instr) : decode (encode i) = .command i := by
  have hfields := commandFields_encode i
  cases i with
  | fft => rfl
  | ifft => rfl
  | npot => rfl
  | firlp win norm f2v kbv => exact decode_of_design hfields
  | firhp win norm f2v kbv => exact decode_of_design hfields
  | firbp win norm f2v kbv => exact decode_of_design hfields
  | firbs win norm f2v kbv => exact decode_of_design hfields

theorem encode_injective : Function.Injective encode := by
  intro i j h
  have hdecode := decode_encode i
  rw [h, decode_encode j] at hdecode
  exact (Decoded.command.inj hdecode).symm

/-- Well-formed fields are those of a command, whose encoding has them too. -/
theorem exists_encode_of_wellFormed {w : Word} (h : (commandFields w).wellFormed = true) :
    ∃ i, encode i = w := by
  obtain ⟨i, hi⟩ := exists_fields_of_wellFormed h
  exact ⟨i, commandFields_injective ((commandFields_encode i).trans hi)⟩

/-- Settles O1: a word that decodes is the encoding of some command, and that command decodes from it. -/
theorem decodeInvertsEncode : Obligations.DecodeInvertsEncode := by
  intro w i
  constructor
  · intro h
    obtain ⟨j, rfl⟩ := exists_encode_of_wellFormed (wellFormed_of_decode h)
    rw [Decoded.command.inj ((decode_encode j).symm.trans h)]
  · rintro rfl
    exact decode_encode i

/-- Settles O4: the legal words are the encodings of their commands; the illegal ones are evaluated. -/
theorem decodeTableWords : Obligations.DecodeTableWords :=
  ⟨decode_encode .fft, decode_encode .ifft, decode_encode .npot,
    decode_encode (.firlp .hamming true false false), decode_encode (.firhp .rect false false false),
    decode_encode (.firbp .rect false true false), decode_encode (.firbs .kaiser true true true),
    by decide, by decide, by decide, by decide, by decide⟩

/-! ### The command words are 163 -/

/-- The codes of `SHAPE` (30_encoding R86). -/
def allShapes : List (BitVec 2) :=
  [0, 1, 2, 3]

/-- The windows (30_encoding R87). -/
def allWindows : List Window :=
  [.rect, .hann, .hamming, .blackman, .kaiser]

/-- The values of a modifier bit. -/
def allBools : List Bool :=
  [false, true]

/-- The design command with the given `SHAPE`, `WIN`, `NORM`, `F2V`, `KBV` (30_encoding R84, R86). -/
def designCommand : BitVec 2 × Window × Bool × Bool × Bool → Instr
  | (shape, win, norm, f2v, kbv) => decodeShape shape.toNat win norm f2v kbv

/-- The design commands: every shape with every window and modifier. -/
def allDesigns : List Instr :=
  (allShapes ×ˢ allWindows ×ˢ allBools ×ˢ allBools ×ˢ allBools).map designCommand

/-- Every command, once (30_encoding R90). -/
def allCommands : List Instr :=
  .fft :: .ifft :: .npot :: allDesigns

theorem mem_allShapes (shape : BitVec 2) : shape ∈ allShapes := by
  obtain rfl | rfl | rfl | rfl : shape = 0 ∨ shape = 1 ∨ shape = 2 ∨ shape = 3 := by bv_omega
  all_goals decide

theorem mem_allWindows (win : Window) : win ∈ allWindows := by
  cases win <;> decide

theorem mem_allBools (b : Bool) : b ∈ allBools := by
  cases b <;> decide

theorem designCommand_mem_allDesigns (m : BitVec 2 × Window × Bool × Bool × Bool) :
    designCommand m ∈ allDesigns := by
  obtain ⟨shape, win, norm, f2v, kbv⟩ := m
  refine List.mem_map_of_mem ?_
  simp only [List.mem_product, mem_allShapes, mem_allWindows, mem_allBools, and_self]

theorem mem_allCommands (i : Instr) : i ∈ allCommands := by
  have hdesign : ∀ m, designCommand m ∈ allCommands := fun m => by
    simp only [allCommands, List.mem_cons, designCommand_mem_allDesigns, or_true]
  cases i with
  | fft => decide
  | ifft => decide
  | npot => decide
  | firlp win norm f2v kbv => exact hdesign (0, win, norm, f2v, kbv)
  | firhp win norm f2v kbv => exact hdesign (1, win, norm, f2v, kbv)
  | firbp win norm f2v kbv => exact hdesign (2, win, norm, f2v, kbv)
  | firbs win norm f2v kbv => exact hdesign (3, win, norm, f2v, kbv)

theorem code_injective : Function.Injective Window.code := by
  intro win win' h
  have hdecode := decodeWindow_code win
  rw [h, decodeWindow_code win'] at hdecode
  exact (Option.some.inj hdecode).symm

/-- The fields of a design command tell all its operands. -/
theorem designCommand_injective : Function.Injective designCommand := by
  rintro ⟨shape, win, norm, f2v, kbv⟩ ⟨shape', win', norm', f2v', kbv'⟩ h
  have hfields := congrArg Instr.fields h
  simp only [designCommand, fields_decodeShape, CommandFields.design, CommandFields.mk.injEq] at hfields
  obtain ⟨-, -, rfl, -, hcode, -, rfl, rfl, rfl, -⟩ := hfields
  rw [code_injective hcode]

theorem not_mem_allDesigns {i : Instr} (h : i.fields.opc ≠ 3) : i ∉ allDesigns := by
  intro hmem
  obtain ⟨⟨shape, win, norm, f2v, kbv⟩, -, rfl⟩ := List.mem_map.mp hmem
  rw [designCommand, fields_decodeShape] at h
  exact h rfl

theorem nodup_allDesigns : allDesigns.Nodup := by
  have hshapes : allShapes.Nodup := by decide
  have hwindows : allWindows.Nodup := by decide
  have hbools : allBools.Nodup := by decide
  exact (hshapes.product (hwindows.product (hbools.product (hbools.product hbools)))).map designCommand_injective

theorem nodup_allCommands : allCommands.Nodup := by
  have hfft : Instr.fft ∉ allDesigns := not_mem_allDesigns (by decide)
  have hifft : Instr.ifft ∉ allDesigns := not_mem_allDesigns (by decide)
  have hnpot : Instr.npot ∉ allDesigns := not_mem_allDesigns (by decide)
  simp [allCommands, hfft, hifft, hnpot, nodup_allDesigns]

/-- 1 + 1 + 1 commands without operands, and 4 shapes with 5 windows and three modifiers. -/
theorem length_allCommands : allCommands.length = 163 := by
  simp only [allCommands, allDesigns, List.length_cons, List.length_map, List.length_product]
  rfl

/-- Settles O2: the words that decode are the encodings of the commands, which the list above names once
each. -/
theorem exactlyCommandWords163 : Obligations.ExactlyCommandWords163 := by
  refine ⟨allCommands.map encode, nodup_allCommands.map encode_injective, ?_, fun w => ?_⟩
  · rw [List.length_map, length_allCommands]
  · simp only [List.mem_map, mem_allCommands, true_and, decodeInvertsEncode w]
    exact exists_congr fun i => eq_comm

/-! ### The illegal words -/

theorem exists_illegal_iff {w : Word} :
    (∃ why, decode w = .illegal why) ↔ (commandFields w).wellFormed = false := by
  constructor
  · rintro ⟨why, hwhy⟩
    refine Bool.eq_false_of_not_eq_true fun h => ?_
    obtain ⟨i, rfl⟩ := exists_encode_of_wellFormed h
    cases (decode_encode i).symm.trans hwhy
  · intro h
    cases hd : decode w with
    | illegal why => exact ⟨why, rfl⟩
    | command i => exact absurd ((wellFormed_of_decode hd).symm.trans h) (by decide)

theorem reservedClear_eq_false_iff {f : CommandFields} :
    f.reservedClear = false ↔ f.bit7 = true ∨ f.bit11 = true ∨ f.high ≠ 0 := by
  simp only [CommandFields.reservedClear, Bool.and_eq_false_iff, Bool.not_eq_false', beq_eq_false_iff_ne,
    or_assoc]

theorem designClear_eq_false_iff {f : CommandFields} :
    f.designClear = false ↔ f.shape ≠ 0 ∨ f.win ≠ 0 ∨ f.norm = true ∨ f.f2v = true ∨ f.kbv = true := by
  simp only [CommandFields.designClear, Bool.and_eq_false_iff, Bool.not_eq_false', beq_eq_false_iff_ne,
    or_assoc]

theorem windowKnown_eq_false_iff {f : CommandFields} : f.windowKnown = false ↔ 5 ≤ f.win.toNat := by
  rw [CommandFields.windowKnown, decide_eq_false_iff_not, Nat.not_le, Nat.lt_iff_add_one_le]

/-- A reserved window is a stray modifier where the format has no window (30_encoding R82, R83). -/
theorem designClear_eq_false_of_window {f : CommandFields} (h : 5 ≤ f.win.toNat) : f.designClear = false :=
  designClear_eq_false_iff.mpr (.inr (.inl fun h0 => by rw [h0] at h; exact absurd h (by decide)))

theorem formatOk_eq_false_iff {f : CommandFields} :
    f.formatOk = false ↔
      (f.opc = 0 ∨ 4 ≤ f.opc.toNat) ∨ (f.inv = true ∧ (f.opc = 2 ∨ f.opc = 3)) ∨
      ((f.opc = 1 ∨ f.opc = 2) ∧ f.designClear = false) ∨ 5 ≤ f.win.toNat := by
  have hclear : f.designClear = false ∨ 5 ≤ f.win.toNat ↔ f.designClear = false :=
    or_iff_left_of_imp designClear_eq_false_of_window
  unfold CommandFields.formatOk
  split
  · rename_i hopc
    have hopc : f.opc = 1 := BitVec.eq_of_toNat_eq hopc
    simp [hopc, hclear]
  · rename_i hopc
    have hopc : f.opc = 2 := BitVec.eq_of_toNat_eq hopc
    rw [Bool.and_eq_false_iff, Bool.not_eq_false']
    simp [hopc, hclear]
  · rename_i hopc
    have hopc : f.opc = 3 := BitVec.eq_of_toNat_eq hopc
    rw [Bool.and_eq_false_iff, Bool.not_eq_false', windowKnown_eq_false_iff]
    simp [hopc]
  · rename_i h1 h2 h3
    simp only [imp_false] at h1 h2 h3
    have hopc : f.opc.toNat = 0 ∨ 4 ≤ f.opc.toNat := by omega
    have hopc : f.opc = 0 ∨ 4 ≤ f.opc.toNat := hopc.imp_left fun h => BitVec.eq_of_toNat_eq h
    simp only [hopc, true_or]

/-- The causes of R91, by the checks of WellFormed that they fail. -/
theorem wellFormed_eq_false_iff {f : CommandFields} :
    f.wellFormed = false ↔
      (f.opc = 0 ∨ 4 ≤ f.opc.toNat) ∨ (f.bit7 = true ∨ f.bit11 = true ∨ f.high ≠ 0) ∨
      (f.inv = true ∧ (f.opc = 2 ∨ f.opc = 3)) ∨
      ((f.opc = 1 ∨ f.opc = 2) ∧
        (f.shape ≠ 0 ∨ f.win ≠ 0 ∨ f.norm = true ∨ f.f2v = true ∨ f.kbv = true)) ∨
      5 ≤ f.win.toNat := by
  rw [CommandFields.wellFormed, Bool.and_eq_false_iff, reservedClear_eq_false_iff, formatOk_eq_false_iff,
    designClear_eq_false_iff]
  exact or_left_comm

end Sys2Proof
end

section
/-! SUPPORT. What the engine does with the parts of a command word: an illegal word, the bit `F2V` of a
one-cutoff shape, and the acceptance of any word (30_encoding R88, R91, R93). -/

namespace Sys2Proof.Machine

/-- Settles O3: a word decodes to no command if its fields fail a check, and the execute step of such a word
is the completion in error. -/
theorem illegalWordsCompleteInError : Obligations.IllegalWordsCompleteInError := by
  refine ⟨fun w => exists_illegal_iff.trans wellFormed_eq_false_iff, fun s why hwhy => ?_⟩
  refine ⟨s.raiseError .illegalCmd, ?_, rfl⟩
  simp only [engineStep, hwhy]

/-- The checks of a one-cutoff shape do not look at `F2V` (42_fir_design R131). -/
theorem runDesign_ignores_f2v (s : State) (win : Window) (norm f2v f2v' kbv : Bool) (ideal : F → Nat → F)
    (fref : F) : s.runDesign false win norm f2v kbv ideal fref = s.runDesign false win norm f2v' kbv ideal fref := by
  have hcheck : s.designCheck false f2v = s.designCheck false f2v' := by
    simp only [State.designCheck, Bool.false_and]
  rw [State.runDesign, State.runDesign, hcheck]

/-- Settles O37: both commands hand `F2V` to the checks of a one-cutoff shape and to nothing else. -/
theorem secondCutoffBitIgnored : Obligations.SecondCutoffBitIgnored := fun s win norm kbv =>
  ⟨congrArg Host.Outcome.next (runDesign_ignores_f2v s win norm true false kbv _ _),
    congrArg Host.Outcome.next (runDesign_ignores_f2v s win norm true false kbv _ _)⟩

/-- Settles O44: the write reaches `CMD`, where it is an acceptance. -/
theorem acceptanceLatchesTheWord : Obligations.AcceptanceLatchesTheWord := fun _ v hs =>
  hostStep_write_reg hs (reach_registerOffset .cmd) v

end Sys2Proof.Machine
end

section
/-! SUPPORT. In-place loops whose turns own disjoint places, and the first such loop: the bit-reversal
permutation (40_transform R102). -/

namespace Sys2Proof.Machine

/-! ### Turns that own their places -/

/-- The first `n` turns of the loop body `f` own disjoint sets of places: a turn changes only places that it
owns, and what it makes of them depends on nothing but their content. -/
structure DisjointTurns {β : Type} (f : List β → Nat → List β) (own : Nat → Nat → Prop) (n : Nat) : Prop where
  frame : ∀ x c j, c < n → ¬ own c j → (f x c)[j]? = x[j]?
  reads_own : ∀ x y c, c < n → (∀ j, own c j → x[j]? = y[j]?) → ∀ j, own c j → (f x c)[j]? = (f y c)[j]?
  disjoint : ∀ c d j, c < n → d < n → own c j → own d j → c = d

section
variable {β : Type} {f : List β → Nat → List β} {own : Nat → Nat → Prop} {n : Nat}

theorem DisjointTurns.of_succ (h : DisjointTurns f own (n + 1)) : DisjointTurns f own n where
  frame x c j hc := h.frame x c j (by omega)
  reads_own x y c hc := h.reads_own x y c (by omega)
  disjoint c d j hc hd := h.disjoint c d j (by omega) (by omega)

theorem foldl_range_succ (f : List β → Nat → List β) (x : List β) (n : Nat) :
    (List.range (n + 1)).foldl f x = f ((List.range n).foldl f x) n := by
  rw [List.range_succ, List.foldl_append, List.foldl_cons, List.foldl_nil]

/-- A place that no turn owns keeps its content. -/
theorem DisjointTurns.foldl_unowned (h : DisjointTurns f own n) (x : List β) {j : Nat}
    (hj : ∀ c, c < n → ¬ own c j) : ((List.range n).foldl f x)[j]? = x[j]? := by
  induction n with
  | zero => rfl
  | succ n ih =>
    rw [foldl_range_succ, h.frame _ n j (by omega) (hj n (by omega))]
    exact ih h.of_succ fun c hc => hj c (by omega)

/-- A place that a turn owns ends as that turn alone would have left it. -/
theorem DisjointTurns.foldl_owned (h : DisjointTurns f own n) (x : List β) {c j : Nat} (hc : c < n)
    (hj : own c j) : ((List.range n).foldl f x)[j]? = (f x c)[j]? := by
  induction n with
  | zero => omega
  | succ n ih =>
    rw [foldl_range_succ]
    rcases Nat.lt_succ_iff_lt_or_eq.mp hc with hlt | rfl
    · have hn : ¬ own n j := fun hn => hlt.ne (h.disjoint c n j hc (by omega) hj hn)
      rw [h.frame _ n j (by omega) hn]
      exact ih h.of_succ hlt
    · refine h.reads_own _ _ c hc (fun i hi => ?_) j hj
      refine h.of_succ.foldl_unowned x fun d hd hdi => ?_
      exact hd.ne (h.disjoint d c i (by omega) hc hdi hi)

/-- The whole loop depends, at each place, on no more than its turns do. -/
theorem DisjointTurns.foldl_congr (h : DisjointTurns f own n) {x y : List β} {S : Nat → Prop}
    (hS : ∀ c j, c < n → own c j → S j) (hxy : ∀ j, S j → x[j]? = y[j]?) {j : Nat} (hj : S j) :
    ((List.range n).foldl f x)[j]? = ((List.range n).foldl f y)[j]? := by
  by_cases hown : ∃ c, c < n ∧ own c j
  · obtain ⟨c, hc, hcj⟩ := hown
    rw [h.foldl_owned x hc hcj, h.foldl_owned y hc hcj]
    exact h.reads_own x y c hc (fun i hi => hxy i (hS c i hc hi)) j hcj
  · have hnone : ∀ c, c < n → ¬ own c j := fun c hc hcj => hown ⟨c, hc, hcj⟩
    rw [h.foldl_unowned x hnone, h.foldl_unowned y hnone]
    exact hxy j hj

end

/-! ### The bits of a reversed index -/

theorem bitrev_succ (p i : Nat) : bitrev (p + 1) i = i % 2 * 2 ^ p + bitrev p (i / 2) := rfl

/-- Bit 0 goes to bit `p`, and the bits above it are reversed below. -/
theorem testBit_bitrev_succ (p i t : Nat) :
    (bitrev (p + 1) i).testBit t = if t < p then (bitrev p (i / 2)).testBit t else (i % 2).testBit (t - p) := by
  rw [bitrev_succ, Nat.mul_comm, Nat.testBit_two_pow_mul_add _ (bitrev_lt p _)]

theorem testBit_bitrev (p i t : Nat) :
    (bitrev p i).testBit t = (decide (t < p) && i.testBit (p - 1 - t)) := by
  induction p generalizing i with
  | zero => simp [bitrev]
  | succ p ih =>
    rw [testBit_bitrev_succ]
    rcases Nat.lt_trichotomy t p with hlt | rfl | hgt
    · have hplace : p + 1 - 1 - t = p - 1 - t + 1 := by omega
      rw [if_pos hlt, ih, hplace, Nat.testBit_succ, decide_eq_true hlt, decide_eq_true (Nat.lt_succ_of_lt hlt)]
    · simp [Nat.testBit_zero]
    · have hzero : (i % 2).testBit (t - p) = false :=
        Nat.testBit_lt_two_pow ((Nat.mod_lt i two_pos).trans_le (Nat.le_self_pow (by omega) 2))
      simp [Nat.not_lt_of_gt hgt, hzero, show ¬ t < p + 1 by omega]

theorem bitrev_bitrev {p i : Nat} (hi : i < 2 ^ p) : bitrev p (bitrev p i) = i := by
  refine Nat.eq_of_testBit_eq fun t => ?_
  rw [testBit_bitrev, testBit_bitrev]
  by_cases ht : t < p
  · simp [ht, show p - 1 - t < p by omega, show p - 1 - (p - 1 - t) = t by omega]
  · simp [ht, Nat.testBit_lt_two_pow (hi.trans_le (Nat.pow_le_pow_right two_pos (not_lt.mp ht)))]

/-- The sum by which the rule defines the reversed index. -/
theorem bitrev_eq_sum (p i : Nat) :
    bitrev p i = ((List.range p).map fun t => (i.testBit t).toNat * 2 ^ (p - 1 - t)).sum := by
  induction p generalizing i with
  | zero => rfl
  | succ p ih =>
    have hbit : (i.testBit 0).toNat = i % 2 := by
      rcases Nat.mod_two_eq_zero_or_one i with h | h <;> simp [Nat.testBit_zero, h]
    rw [bitrev_succ, ih, List.range_succ_eq_map, List.map_cons, List.sum_cons, hbit, List.map_map]
    refine congrArg _ (congrArg List.sum (List.map_congr_left fun t _ => ?_))
    have hplace : p + 1 - 1 - (t + 1) = p - 1 - t := by omega
    rw [Function.comp_apply, Nat.testBit_succ, hplace]

/-! ### The permutation -/

/-- Two writes leave the same at the places they hit, whatever the rest of the list. -/
theorem getElem?_set_set_congr {β : Type} {x y : List β} {i j : Nat} (hi : x[i]? = y[i]?) (hj : x[j]? = y[j]?)
    (a b : β) {k : Nat} (hk : k = i ∨ k = j) : ((x.set i a).set j b)[k]? = ((y.set i a).set j b)[k]? := by
  have hleni := List.getElem?_eq_none_iff (l := x) (i := i)
  have hlenj := List.getElem?_eq_none_iff (l := x) (i := j)
  rw [hi, List.getElem?_eq_none_iff] at hleni
  rw [hj, List.getElem?_eq_none_iff] at hlenj
  simp only [List.getElem?_set, List.length_set]
  rcases hk with rfl | rfl <;> grind

theorem swapAt_congr {β : Type} {x y : List β} {i j : Nat} (hi : x[i]? = y[i]?) (hj : x[j]? = y[j]?) {k : Nat}
    (hk : k = i ∨ k = j) : (swapAt x i j)[k]? = (swapAt y i j)[k]? := by
  have hkeep : x[k]? = y[k]? := by
    rcases hk with rfl | rfl
    · exact hi
    · exact hj
  rw [swapAt, swapAt, ← hi, ← hj]
  split
  · exact getElem?_set_set_congr hi hj _ _ hk
  · exact hkeep

theorem swapAt_frame {β : Type} (x : List β) {i j k : Nat} (hi : k ≠ i) (hj : k ≠ j) :
    (swapAt x i j)[k]? = x[k]? := by
  rw [swapAt]
  split
  · rw [List.getElem?_set_ne hj.symm, List.getElem?_set_ne hi.symm]
  · rfl

/-- The turn of `i` owns the two places it swaps, if it swaps. -/
def swapOwns (p i j : Nat) : Prop :=
  i < bitrev p i ∧ (j = i ∨ j = bitrev p i)

theorem permuteAt_disjoint (β : Type) (p : Nat) :
    DisjointTurns (permuteAt (β := β) p) (swapOwns p) (2 ^ p) where
  frame x i j _ hj := by
    rw [permuteAt]
    split
    · rename_i hlt
      exact swapAt_frame x (fun h => hj ⟨hlt, .inl h⟩) fun h => hj ⟨hlt, .inr h⟩
    · rfl
  reads_own x y i _ hxy j hj := by
    obtain ⟨hlt, hplace⟩ := hj
    rw [permuteAt, permuteAt, if_pos hlt, if_pos hlt]
    exact swapAt_congr (hxy _ ⟨hlt, .inl rfl⟩) (hxy _ ⟨hlt, .inr rfl⟩) hplace
  disjoint c d j hc hd hcj hdj := by
    obtain ⟨hclt, hc' | hc'⟩ := hcj <;> obtain ⟨hdlt, hd' | hd'⟩ := hdj
    · exact hc'.symm.trans hd'
    · rw [← hc', hd', bitrev_bitrev hd] at hclt
      omega
    · rw [← hd', hc', bitrev_bitrev hc] at hdlt
      omega
    · rw [← bitrev_bitrev hc, ← hc', hd', bitrev_bitrev hd]

/-- Place `i` ends with the element of the reversed place: swapped there by the turn of the smaller of the
two, or in its own place all along. -/
theorem permute_getElem? {β : Type} {p : Nat} {x : List β} (hx : x.length = 2 ^ p) {i : Nat} (hi : i < 2 ^ p) :
    (permute p (2 ^ p) x)[i]? = x[bitrev p i]? := by
  have hturns := permuteAt_disjoint β p
  have hrev := bitrev_lt p i
  rw [permute]
  rcases Nat.lt_trichotomy i (bitrev p i) with hlt | heq | hgt
  · rw [hturns.foldl_owned x hi ⟨hlt, .inl rfl⟩, permuteAt, if_pos hlt,
      swapAt_getElem? x (hi.trans_eq hx.symm) (hrev.trans_eq hx.symm), if_neg hlt.ne, if_pos rfl]
  · rw [hturns.foldl_unowned, ← heq]
    rintro c hc ⟨hclt, rfl | hic⟩
    · omega
    · rw [hic, bitrev_bitrev hc] at heq
      omega
  · have hback := bitrev_bitrev hi
    rw [hturns.foldl_owned x hrev ⟨hgt.trans_eq hback.symm, .inr hback.symm⟩, permuteAt, hback, if_pos hgt,
      swapAt_getElem? x (hrev.trans_eq hx.symm) (hi.trans_eq hx.symm), if_pos rfl]

/-- A reversal that moves nothing leaves the list as it is. -/
theorem permute_of_fixed {β : Type} {p : Nat} {x : List β} (hx : x.length = 2 ^ p)
    (hfixed : ∀ i, i < 2 ^ p → bitrev p i = i) : permute p (2 ^ p) x = x := by
  refine List.ext_getElem? fun i => ?_
  rcases Nat.lt_or_ge i (2 ^ p) with hi | hi
  · rw [permute_getElem? hx hi, hfixed i hi]
  · rw [List.getElem?_eq_none (by simpa [hx]), List.getElem?_eq_none (by rwa [hx])]

/-- Settles O18: the turns of the loop swap disjoint pairs, each place with its reversed place. -/
theorem bitReversalPermutation : Obligations.BitReversalPermutation :=
  ⟨bitrev_eq_sum, fun _ _ => bitrev_bitrev, fun _ _ _ hx _ => permute_getElem? hx,
    fun _ _ hx => permute_of_fixed (p := 0) hx (by decide),
    fun _ _ hx => permute_of_fixed (p := 1) hx (by decide), by decide⟩

end Sys2Proof.Machine
end

section
/-! SUPPORT. The length check of the transform commands, and what a transform with a legal length leaves in the
active range and outside it (40_transform R100, R101, R106, R107, R110). -/

namespace Sys2Proof.Machine

/-! ### The legal lengths -/

/-- `N & (N - 1)` is 0 for a power of two alone, and the bound leaves the powers up to 2^20. -/
theorem refusedLength_iff (N : Nat) :
    (N = 0 ∨ Config.fftMaxLen < N ∨ N &&& (N - 1) ≠ 0) ↔ ¬ ∃ k, k ≤ 20 ∧ N = 2 ^ k := by
  have hmax : Config.fftMaxLen = 2 ^ 20 := rfl
  rw [iff_not_comm, hmax]
  constructor
  · rintro ⟨k, hk, rfl⟩
    have hpow := Nat.ne_zero_and_sub_one_eq_zero_iff_isPowerOfTwo.mpr ⟨k, rfl⟩
    exact fun h => h.elim hpow.1 fun h =>
      h.elim (Nat.pow_le_pow_right two_pos hk).not_gt fun h => h hpow.2
  · intro h
    obtain ⟨hzero, hmax, hand⟩ : N ≠ 0 ∧ N ≤ 2 ^ 20 ∧ N &&& (N - 1) = 0 := by
      simpa only [not_or, not_lt, not_not] using h
    obtain ⟨k, rfl⟩ := Nat.ne_zero_and_sub_one_eq_zero_iff_isPowerOfTwo.mp ⟨hzero, hand⟩
    exact ⟨k, (Nat.pow_le_pow_iff_right one_lt_two).mp hmax, rfl⟩

theorem badLength_two_pow {k : Nat} (hk : k ≤ 20) : badLength (2 ^ k) = false :=
  decide_eq_false fun h => (refusedLength_iff _).mp h ⟨k, hk, rfl⟩

/-! ### The two outcomes -/

theorem runTransform_bad (f : Nat → List (F × F) → List (F × F)) {s : State}
    (h : badLength s.pointCount = true) : runTransform f s = s.raiseError .invalidInput := by
  rcases runTransform_cases f s with ⟨-, h'⟩ | ⟨hgood, -⟩
  · exact h'
  · exact absurd (h.symm.trans hgood) (by decide)

theorem runTransform_good (f : Nat → List (F × F) → List (F × F)) {s : State}
    (h : badLength s.pointCount = false) :
    runTransform f s = ((s.storeValues .re ((f s.pointCount (s.points s.pointCount)).map Prod.fst)).storeValues
      .im ((f s.pointCount (s.points s.pointCount)).map Prod.snd)).complete false := by
  rcases runTransform_cases f s with ⟨hbad, -⟩ | ⟨-, h'⟩
  · exact absurd (hbad.symm.trans h) (by decide)
  · exact h'

/-- Points written to `RE` and `IM` stand there, and every byte beyond them is as before. -/
theorem sameBytesOutside_storePoints (s : State) {xs ys : List F} {n : Nat} (hx : xs.length = n)
    (hy : ys.length = n) :
    sameBytesOutside s.mem ((s.storeValues .re xs).storeValues .im ys).mem [.re, .im] n := by
  intro a ha
  have hre := ha .re (by simp)
  have him := ha .im (by simp)
  rw [readByte_storeValues_outside _ .im ys (by rwa [hy]), readByte_storeValues_outside s .re xs (by rwa [hx])]

/-- With a legal length a transform command writes what its algorithm makes of the points. -/
theorem runTransform_transformedTo {f : Nat → List (F × F) → List (F × F)}
    (hf : ∀ N x, (f N x).length = x.length) {s : State} {k : Nat} (hk : k ≤ 20) (hlen : s.len.toNat = 2 ^ k) :
    s.transformedTo (runTransform f s) (f (2 ^ k) (s.points (2 ^ k))) := by
  have hN : s.pointCount = 2 ^ k := hlen
  have hgood : badLength s.pointCount = false := hN ▸ badLength_two_pow hk
  have hmax := (goodLength_bounds hgood).2
  rw [runTransform_good f hgood, hN]
  rw [hN] at hmax
  have hy : (f (2 ^ k) (s.points (2 ^ k))).length = 2 ^ k := by rw [hf, State.points_length]
  generalize f (2 ^ k) (s.points (2 ^ k)) = y at hy ⊢
  refine ⟨⟨rfl, rfl, rfl, rfl, rfl, rfl, rfl, rfl, rfl, rfl, rfl, rfl⟩, rfl, rfl, ?_,
    ⟨rfl, rfl, rfl, rfl, rfl⟩, fun i hi => ?_⟩
  · exact sameBytesOutside_storePoints s (by simp [hy, hlen]) (by simp [hy, hlen])
  · have hi : i < y.length := by rwa [hy, ← hlen]
    obtain ⟨hre, him⟩ := readElem_storeValues_re_im s (xs := y.map Prod.fst) (ys := y.map Prod.snd) (n := i)
      (by simpa) (by simpa) (by simpa [hy]) (by simpa [hy])
    rw [List.getElem_map] at hre him
    exact ⟨y[i], _, _, List.getElem?_eq_getElem hi, hre, him⟩

/-- Settles O16: `FFT` is `runTransform` of the forward transform. -/
theorem fftTransformsActiveRange : Obligations.FftTransformsActiveRange := fun _ _ hk hlen =>
  ⟨_, rfl, runTransform_transformedTo (forwardTransform_length binary64) hk hlen⟩

/-- Settles O17: `IFFT` is `runTransform` of the inverse transform, whose last phase divides every part. -/
theorem ifftTransformsActiveRange : Obligations.IfftTransformsActiveRange := fun _ _ hk hlen =>
  ⟨_, rfl, runTransform_transformedTo (inverseTransform_length binary64) hk hlen⟩

/-- Settles O15: the refused lengths are those that are no power of two up to 2^20, and the check comes before
anything else. -/
theorem transformLengthCheck : Obligations.TransformLengthCheck := by
  refine ⟨refusedLength_iff, fun s hbad => ?_, fun s k hk hlen => ?_⟩
  · have hbad : badLength s.pointCount = true := decide_eq_true hbad
    exact ⟨s.raiseError .invalidInput, congrArg _ (runTransform_bad _ hbad),
      congrArg _ (runTransform_bad _ hbad), rfl⟩
  · obtain ⟨-, -, -, -, hfft, -⟩ := runTransform_transformedTo (forwardTransform_length binary64) hk hlen
    obtain ⟨-, -, -, -, hifft, -⟩ := runTransform_transformedTo (inverseTransform_length binary64) hk hlen
    exact ⟨_, _, rfl, rfl, hfft, hifft⟩

end Sys2Proof.Machine
end

section
/-! SUPPORT. The transforms of one and of two points in binary64 (40_transform R114): what remains of an
operation with a zero or with 1.0. -/

namespace Sys2Proof.Machine

/-! ### Operations with a zero and with 1.0 -/

theorem const_one_eq : binary64.const .one = .fin false oneUnits :=
  (const_eq_ofWord .one).trans ofWord_one

theorem const_negOne_eq : binary64.const .negOne = .fin true oneUnits := by
  have h : F.ofWord (constWord .negOne) = .fin true ((2 ^ 52 + 0) * 2 ^ 1022) :=
    ofWord_normal rfl rfl (by norm_num)
  rw [const_eq_ofWord, h, oneUnits, add_zero, ← pow_add]

theorem tofloat_eq (i : Nat) : tofloat i = .fin false (i * oneUnits) := rfl

theorem tofloat_one : tofloat 1 = .fin false oneUnits := by
  rw [tofloat_eq, one_mul]

theorem tofloat_zero : tofloat 0 = .fin false 0 := by
  rw [tofloat_eq, zero_mul]

theorem roundF_zero (neg : Bool) (q : Nat) (hq : 0 < q) : roundF neg 0 q = .fin neg 0 := by
  have h := roundF_representable (n := 0) neg ⟨0, 0, by norm_num, rfl⟩ (by rw [overflowUnits]; positivity) hq
  rwa [zero_mul] at h

/-- A value of `F` that is a magnitude in units: what `F.ofWord` gives for a finite pattern. -/
theorem exists_fin_of_isfinite {w : Word} (h : isfinite (F.ofWord w) = true) :
    ∃ neg n, F.ofWord w = .fin neg n ∧ Representable n ∧ n < overflowUnits := by
  obtain ⟨neg, n, hw⟩ := isfinite_iff.mp h
  exact ⟨neg, n, hw, ofWord_fin hw⟩

theorem fmul_zero_right (a b : Bool) (m : Nat) : fmul (.fin a m) (.fin b 0) = .fin (a ^^ b) 0 := by
  rw [fmul_fin_eq, mul_zero, roundF_zero _ _ oneUnits_pos]

theorem fdiv_zero_tofloat (a : Bool) {i : Nat} (hi : 0 < i) : fdiv (.fin a 0) (tofloat i) = .fin a 0 := by
  have hn : 0 < i * oneUnits := Nat.mul_pos hi oneUnits_pos
  rw [tofloat_eq, fdiv_fin_eq hn.ne', zero_mul, roundF_zero _ _ hn, Bool.xor_false]

section
variable {m : Nat} (hrep : Representable m) (hlt : m < overflowUnits)
include hrep hlt

/-- Multiplying by 1.0, of either sign, only multiplies the signs. -/
theorem fmul_one_right (a b : Bool) : fmul (.fin a m) (.fin b oneUnits) = .fin (a ^^ b) m := by
  rw [fmul_fin_eq, roundF_representable _ hrep hlt oneUnits_pos]

theorem fmul_one_left (a b : Bool) : fmul (.fin b oneUnits) (.fin a m) = .fin (b ^^ a) m := by
  rw [fmul_fin_eq, mul_comm, roundF_representable _ hrep hlt oneUnits_pos]

theorem fdiv_one_right (a : Bool) : fdiv (.fin a m) (.fin false oneUnits) = .fin a m := by
  rw [fdiv_fin_eq oneUnits_pos.ne', Bool.xor_false, roundF_representable _ hrep hlt oneUnits_pos]

/-- Adding a zero of either sign keeps the magnitude, and the sign too but for a zero. -/
theorem fadd_zero_right (a b : Bool) : ∃ c, fadd (.fin a m) (.fin b 0) = .fin c m ∧ (c = a ∨ m = 0) := by
  have hround := roundF_representable a hrep hlt one_pos
  rw [mul_one] at hround
  rw [fadd_fin_eq]
  rcases Nat.eq_zero_or_pos m with rfl | hm
  · simp only [add_zero, lt_irrefl, if_false, hround]
    split
    · exact ⟨a, rfl, .inl rfl⟩
    · exact ⟨false, rfl, .inr trivial⟩
  · refine ⟨a, ?_, .inl rfl⟩
    simp only [add_zero, Nat.sub_zero, hm, if_true, hround, ite_self]

end

theorem fadd_fin_comm (a b : Bool) (m n : Nat) : fadd (.fin a m) (.fin b n) = fadd (.fin b n) (.fin a m) := by
  rw [fadd_fin_eq, fadd_fin_eq]
  by_cases hab : a = b
  · rw [if_pos hab, if_pos hab.symm, hab, add_comm]
  · rw [if_neg hab, if_neg (Ne.symm hab)]
    rcases lt_trichotomy n m with h | rfl | h
    · rw [if_pos h, if_neg h.not_gt, if_pos h]
    · simp only [lt_irrefl, if_false]
    · rw [if_neg h.not_gt, if_pos h, if_pos h]

/-- Dividing by 1.0 keeps every value that is no NaN. -/
theorem fdiv_const_one {w : Word} (h : ∀ k, F.ofWord w ≠ .nan k) :
    fdiv (F.ofWord w) (binary64.const .one) = F.ofWord w := by
  rw [const_one_eq]
  cases hw : F.ofWord w with
  | nan k => exact absurd hw (h k)
  | inf neg => exact congrArg F.inf (Bool.xor_false neg)
  | fin neg n => exact fdiv_one_right (ofWord_fin hw).1 (ofWord_fin hw).2 neg

/-! ### Equality of values -/

theorem rank_fin (neg : Bool) (n : Nat) : (F.fin neg n).rank = some (if neg then -(n : Int) else n) := rfl

theorem feq_of_rank {x y : F} {r : Int} (hx : x.rank = some r) (hy : y.rank = some r) : feq x y = true := by
  rw [feq, hx, hy]
  exact decide_eq_true rfl

theorem feq_self {x : F} (h : ∀ k, x ≠ .nan k) : feq x x = true := by
  cases x with
  | nan k => exact absurd rfl (h k)
  | inf neg => exact feq_of_rank rfl rfl
  | fin neg n => exact feq_of_rank (rank_fin neg n) (rank_fin neg n)

/-- A zero has one value, whatever its sign. -/
theorem rank_of_sign {a c : Bool} {n : Nat} (h : c = a ∨ n = 0) : (F.fin c n).rank = (F.fin a n).rank := by
  rcases h with rfl | rfl
  · rfl
  · rw [rank_fin, rank_fin, Nat.cast_zero, neg_zero, ite_self, ite_self]

theorem roundF_ne_nan (neg : Bool) (p q : Nat) (k : Option Word) : roundF neg p q ≠ .nan k := by
  rw [roundF_eq]
  unfold finiteOrInf
  split <;> nofun

theorem fadd_fin_ne_nan (a b : Bool) (m n : Nat) (k : Option Word) : fadd (.fin a m) (.fin b n) ≠ .nan k := by
  rw [fadd_fin_eq]
  split_ifs
  · exact roundF_ne_nan _ _ _ k
  · exact roundF_ne_nan _ _ _ k
  · exact roundF_ne_nan _ _ _ k
  · nofun

/-- The sign of a zero operand makes no difference to the value of a sum. -/
theorem feq_fadd_of_sign {a b c : Bool} {m n : Nat} (hrep : Representable m) (hlt : m < overflowUnits)
    (h : c = b ∨ n = 0) : feq (fadd (.fin a m) (.fin c n)) (fadd (.fin a m) (.fin b n)) = true := by
  rcases h with rfl | rfl
  · exact feq_self (fadd_fin_ne_nan _ _ _ _)
  · obtain ⟨d, hd, hsign⟩ := fadd_zero_right hrep hlt a c
    obtain ⟨d', hd', hsign'⟩ := fadd_zero_right hrep hlt a b
    rw [hd, hd']
    exact feq_of_rank ((rank_of_sign hsign).trans (rank_fin a m)) ((rank_of_sign hsign').trans (rank_fin a m))

theorem feq_fsub_of_sign {a b c : Bool} {m n : Nat} (hrep : Representable m) (hlt : m < overflowUnits)
    (h : c = b ∨ n = 0) : feq (fsub (.fin a m) (.fin c n)) (fsub (.fin a m) (.fin b n)) = true :=
  feq_fadd_of_sign hrep hlt (h.imp_left (congrArg Bool.not))

/-! ### The transforms -/

theorem transform_one {α : Type} (A : Arith α) (sgn : α) (z : α × α) : transform A sgn 1 [z] = [z] := rfl

/-- Two points: one butterfly, with the twiddle of index 0. -/
theorem transform_two {α : Type} (A : Arith α) (sgn : α) (u v : α × α) :
    transform A sgn 2 [u, v]
      = [cadd A u (cmul A v (twiddle A sgn 0 2)), csub A u (cmul A v (twiddle A sgn 0 2))] := rfl

/-! ### The primitives, over `F` -/

theorem cadd_binary64 (x₁ x₂ y₁ y₂ : F) :
    cadd binary64 (x₁, x₂) (y₁, y₂) = (fadd x₁ y₁, fadd x₂ y₂) := rfl

theorem csub_binary64 (x₁ x₂ y₁ y₂ : F) :
    csub binary64 (x₁, x₂) (y₁, y₂) = (fsub x₁ y₁, fsub x₂ y₂) := rfl

theorem cmul_binary64 (x₁ x₂ y₁ y₂ : F) : cmul binary64 (x₁, x₂) (y₁, y₂)
    = (fsub (fmul x₁ y₁) (fmul x₂ y₂), fadd (fmul x₁ y₂) (fmul x₂ y₁)) := rfl

theorem fsub_fin_eq (x : F) (b : Bool) (n : Nat) : fsub x (.fin b n) = fadd x (.fin (!b) n) := rfl

theorem twiddle_binary64 (sgn : F) (k s : Nat) : twiddle binary64 sgn k s
    = (cosF (fdiv (fmul (fmul sgn (binary64.const .twoPi)) (tofloat k)) (tofloat s)),
      sinF (fdiv (fmul (fmul sgn (binary64.const .twoPi)) (tofloat k)) (tofloat s))) := rfl

theorem cosF_zero (neg : Bool) : cosF (.fin neg 0) = .fin false oneUnits := rfl

theorem sinF_zero (neg : Bool) : sinF (.fin neg 0) = .fin neg 0 := rfl

/-- The twiddle of index 0 is 1.0 with a zero of some sign (40_transform R103). -/
theorem twiddle_zero : ∃ c, twiddle binary64 (binary64.const .negOne) 0 2 = (.fin false oneUnits, .fin c 0) := by
  have htwoPi : F.ofWord (constWord .twoPi) = .fin false ((2 ^ 52 + 0x921FB54442D18) * 2 ^ 1024) :=
    ofWord_normal rfl rfl (by norm_num)
  obtain ⟨hrep, hlt⟩ := ofWord_fin htwoPi
  refine ⟨true, ?_⟩
  rw [twiddle_binary64, const_negOne_eq, const_eq_ofWord, htwoPi, fmul_one_left hrep hlt, tofloat_zero,
    fmul_zero_right, fdiv_zero_tofloat _ two_pos, cosF_zero, sinF_zero]
  rfl

section
variable {a b : Bool} {m n : Nat} (hm : Representable m) (hmlt : m < overflowUnits) (hn : Representable n)
  (hnlt : n < overflowUnits)
include hm hmlt hn hnlt

/-- A product with 1.0 and a zero is the other factor, but for the signs of its zeros. -/
theorem cmul_one_zero (c : Bool) :
    ∃ a' b', cmul binary64 (.fin a m, .fin b n) (.fin false oneUnits, .fin c 0) = (.fin a' m, .fin b' n) ∧
      (a' = a ∨ m = 0) ∧ (b' = b ∨ n = 0) := by
  obtain ⟨a', hre, ha⟩ := fadd_zero_right hm hmlt a (!(b ^^ c))
  obtain ⟨b', him, hb⟩ := fadd_zero_right hn hnlt b (a ^^ c)
  refine ⟨a', b', ?_, ha, hb⟩
  rw [cmul_binary64, fmul_one_right hm hmlt, fmul_zero_right, fmul_zero_right, fmul_one_right hn hnlt,
    Bool.xor_false, Bool.xor_false, fsub_fin_eq, hre, fadd_fin_comm, him]

/-- The one butterfly of two finite points gives the sums and the differences of their parts, as values. -/
theorem forwardTransform_two {a' b' : Bool} {m' n' : Nat} (hm' : Representable m') (hmlt' : m' < overflowUnits)
    (hn' : Representable n') (hnlt' : n' < overflowUnits) :
    ∃ r0 i0 r1 i1, forwardTransform binary64 2 [(.fin a' m', .fin b' n'), (.fin a m, .fin b n)]
        = [(r0, i0), (r1, i1)] ∧
      feq r0 (fadd (.fin a' m') (.fin a m)) = true ∧ feq r1 (fsub (.fin a' m') (.fin a m)) = true ∧
      feq i0 (fadd (.fin b' n') (.fin b n)) = true ∧ feq i1 (fsub (.fin b' n') (.fin b n)) = true := by
  obtain ⟨c, htwiddle⟩ := twiddle_zero
  obtain ⟨at', bt', hprod, ha, hb⟩ := cmul_one_zero (a := a) (b := b) hm hmlt hn hnlt c
  refine ⟨_, _, _, _, ?_, feq_fadd_of_sign hm' hmlt' ha, feq_fsub_of_sign hm' hmlt' ha,
    feq_fadd_of_sign hn' hnlt' hb, feq_fsub_of_sign hn' hnlt' hb⟩
  rw [forwardTransform, transform_two, htwiddle, hprod, cadd_binary64, csub_binary64]

end

/-- Settles O19: one point has no butterfly and is divided by 1.0, two points have one butterfly, whose
twiddle is 1.0. -/
theorem transformOfOneAndTwoPoints : Obligations.TransformOfOneAndTwoPoints := by
  refine ⟨transform_one _ _, fun z => ?_, fun w => fdiv_const_one, fun a b c d ha hb hc hd => ?_⟩
  · rw [inverseTransform, transform_one, const_one_eq, ← tofloat_one]
    rfl
  · obtain ⟨_, m', ha, hm', hmlt'⟩ := exists_fin_of_isfinite ha
    obtain ⟨_, n', hb, hn', hnlt'⟩ := exists_fin_of_isfinite hb
    obtain ⟨_, m, hc, hm, hmlt⟩ := exists_fin_of_isfinite hc
    obtain ⟨_, n, hd, hn, hnlt⟩ := exists_fin_of_isfinite hd
    rw [ha, hb, hc, hd]
    exact forwardTransform_two hm hmlt hn hnlt hm' hmlt' hn' hnlt'

end Sys2Proof.Machine
end

section
/-! SUPPORT. The butterfly stages over any primitives (40_transform R104): every butterfly owns two places, and
the blocks of a stage own disjoint runs. -/

namespace Sys2Proof.Machine

variable {α : Type}

/-! ### One block -/

theorem butterfly_frame (A : Arith α) (sgn : α) (s start : Nat) (x : List (α × α)) {k j : Nat}
    (ha : j ≠ start + k) (hb : j ≠ start + k + s / 2) : (butterfly A sgn s start x k)[j]? = x[j]? := by
  simp only [butterfly]
  split
  · rw [List.getElem?_set_ne ha.symm, List.getElem?_set_ne hb.symm]
  · rfl

theorem butterfly_congr (A : Arith α) (sgn : α) {s start k : Nat} {x y : List (α × α)}
    (ha : x[start + k]? = y[start + k]?) (hb : x[start + k + s / 2]? = y[start + k + s / 2]?) {j : Nat}
    (hj : j = start + k ∨ j = start + k + s / 2) :
    (butterfly A sgn s start x k)[j]? = (butterfly A sgn s start y k)[j]? := by
  have hkeep : x[j]? = y[j]? := by
    rcases hj with rfl | rfl
    · exact ha
    · exact hb
  simp only [butterfly, ← ha, ← hb]
  split
  · exact getElem?_set_set_congr hb ha _ _ hj.symm
  · exact hkeep

/-- Butterfly `k` of a block owns its two places, half a span apart. -/
def butterflyOwns (s start k j : Nat) : Prop :=
  j = start + k ∨ j = start + k + s / 2

theorem butterfly_disjoint (A : Arith α) (sgn : α) (s start : Nat) :
    DisjointTurns (butterfly A sgn s start) (butterflyOwns s start) (s / 2) where
  frame x _ _ _ hj := butterfly_frame A sgn s start x (fun h => hj (.inl h)) fun h => hj (.inr h)
  reads_own _ _ _ _ hxy _ hj := butterfly_congr A sgn (hxy _ (.inl rfl)) (hxy _ (.inr rfl)) hj
  disjoint c d j hc hd hcj hdj := by
    unfold butterflyOwns at hcj hdj
    omega

/-! ### One stage -/

/-- The block at `c · s` owns the run of `s` places there. -/
def blockOwns (s c j : Nat) : Prop :=
  c * s ≤ j ∧ j < c * s + s

theorem blockOwns_of_butterflyOwns {s c k j : Nat} (hk : k < s / 2) (h : butterflyOwns s (c * s) k j) :
    blockOwns s c j := by
  unfold butterflyOwns at h
  unfold blockOwns
  omega

theorem eq_of_blockOwns {s c d j : Nat} (hc : blockOwns s c j) (hd : blockOwns s d j) : c = d := by
  have index : ∀ e, blockOwns s e j → j / s = e := fun e he =>
    Nat.div_eq_of_lt_le he.1 (he.2.trans_eq (Nat.succ_mul e s).symm)
  exact (index c hc).symm.trans (index d hd)

theorem blockPass_disjoint (A : Arith α) (sgn : α) (s n : Nat) :
    DisjointTurns (fun y c => blockPass A sgn s y (c * s)) (blockOwns s) n where
  frame x c _ _ hj := (butterfly_disjoint A sgn s (c * s)).foldl_unowned x fun _ hk hkj =>
    hj (blockOwns_of_butterflyOwns hk hkj)
  reads_own _ _ c _ hxy _ hj := (butterfly_disjoint A sgn s (c * s)).foldl_congr
    (fun _ _ hk hkj => blockOwns_of_butterflyOwns hk hkj) hxy hj
  disjoint _ _ _ _ _ := eq_of_blockOwns

/-- What a stage of span `2 h` makes of the two places of butterfly `k` in block `c`: the sum and the
difference, the second point turned by the twiddle (40_transform R104). -/
theorem stage_getElem? (A : Arith α) (sgn : α) {N h c k : Nat} {x : List (α × α)} {u v : α × α}
    (hc : c < N / (2 * h)) (hk : k < h) (hu : x[c * (2 * h) + k]? = some u)
    (hv : x[c * (2 * h) + k + h]? = some v) :
    (stage A sgn N (2 * h) x)[c * (2 * h) + k]? = some (cadd A u (cmul A v (twiddle A sgn k (2 * h)))) ∧
    (stage A sgn N (2 * h) x)[c * (2 * h) + k + h]?
      = some (csub A u (cmul A v (twiddle A sgn k (2 * h)))) := by
  have hhalf : 2 * h / 2 = h := Nat.mul_div_cancel_left h two_pos
  have hk' : k < 2 * h / 2 := by rwa [hhalf]
  have howns : ∀ j, butterflyOwns (2 * h) (c * (2 * h)) k j → (stage A sgn N (2 * h) x)[j]?
      = (butterfly A sgn (2 * h) (c * (2 * h)) x k)[j]? := fun j hj =>
    ((blockPass_disjoint A sgn (2 * h) (N / (2 * h))).foldl_owned x hc (blockOwns_of_butterflyOwns hk' hj)).trans
      ((butterfly_disjoint A sgn (2 * h) (c * (2 * h))).foldl_owned x hk' hj)
  have hbutterfly := butterfly_getElem? A sgn (s := 2 * h) (start := c * (2 * h)) (k := k) (u := u) (v := v)
    (by omega) hu (by rwa [hhalf])
  rw [hhalf] at hbutterfly
  constructor
  · rw [howns _ (.inl rfl), hbutterfly, if_pos rfl]
  · rw [howns _ (.inr (by rw [hhalf])), hbutterfly, if_neg (by omega), if_pos rfl]

theorem stages_succ (A : Arith α) (sgn : α) (N q : Nat) (x : List (α × α)) :
    stages A sgn N (q + 1) x = stage A sgn N (2 * 2 ^ q) (stages A sgn N q x) := by
  rw [stages, foldl_range_succ, Nat.pow_succ', stages]

end Sys2Proof.Machine
end

section
/-! SUPPORT. The discrete Fourier transform over the complex numbers, of which 40_transform R108 speaks: its
split by parity, its inverse and its symmetry. The next part ties the model's transform to it. -/

namespace Sys2Proof

/-! ### Phasors -/

/-- The phasor of `n / N` of a full turn, in the direction that the sign `σ` gives. -/
noncomputable def phasor (σ : ℝ) (n N : Nat) : ℂ :=
  Complex.exp (σ * (2 * Real.pi * Complex.I) * (n / N))

theorem phasor_zero (σ : ℝ) (N : Nat) : phasor σ 0 N = 1 := by
  simp [phasor]

theorem phasor_add (σ : ℝ) (m n N : Nat) : phasor σ (m + n) N = phasor σ m N * phasor σ n N := by
  rw [phasor, phasor, phasor, ← Complex.exp_add]
  push_cast
  ring_nf

theorem phasor_mul (σ : ℝ) (k n N : Nat) : phasor σ (k * n) N = phasor σ n N ^ k := by
  rw [phasor, phasor, ← Complex.exp_nat_mul]
  push_cast
  ring_nf

theorem phasor_scale (σ : ℝ) {c : Nat} (hc : c ≠ 0) (n N : Nat) : phasor σ (c * n) (c * N) = phasor σ n N := by
  rw [phasor, phasor, Nat.cast_mul, Nat.cast_mul, mul_div_mul_left _ _ (Nat.cast_ne_zero.mpr hc)]

/-- Phasors of opposite directions are inverse to each other. -/
theorem phasor_neg (σ : ℝ) (n N : Nat) : phasor (-σ) n N = (phasor σ n N)⁻¹ := by
  rw [phasor, phasor, ← Complex.exp_neg, Complex.ofReal_neg, neg_mul, neg_mul]

theorem phasor_ne_zero (σ : ℝ) (n N : Nat) : phasor σ n N ≠ 0 :=
  Complex.exp_ne_zero _

theorem conj_phasor (σ : ℝ) (n N : Nat) : starRingEnd ℂ (phasor σ n N) = phasor (-σ) n N := by
  rw [phasor, phasor, ← Complex.exp_conj]
  simp only [map_mul, map_div₀, Complex.conj_ofReal, Complex.conj_I, map_ofNat, map_natCast, Complex.ofReal_neg]
  ring_nf

section
variable {σ : ℝ} {N : Nat} (hσ : σ = 1 ∨ σ = -1) (hN : N ≠ 0)
include hσ hN

/-- One step of the circle, in either direction, is a primitive root of unity. -/
theorem phasor_one_isPrimitiveRoot : IsPrimitiveRoot (phasor σ 1 N) N := by
  have hroot := Complex.isPrimitiveRoot_exp N hN
  have hone : phasor 1 1 N = Complex.exp (2 * Real.pi * Complex.I / N) := by
    rw [phasor, Complex.ofReal_one, one_mul, Nat.cast_one, mul_one_div]
  rcases hσ with rfl | rfl
  · rwa [hone]
  · rw [phasor_neg, hone]
    exact hroot.inv

theorem phasor_full : phasor σ N N = 1 := by
  have h := (phasor_one_isPrimitiveRoot hσ hN).pow_eq_one
  rwa [← phasor_mul, mul_one] at h

/-- A turn by a multiple of the whole circle changes nothing. -/
theorem phasor_mul_full (k : Nat) : phasor σ (k * N) N = 1 := by
  rw [phasor_mul, phasor_full hσ hN, one_pow]

theorem phasor_injective {m n : Nat} (hm : m < N) (hn : n < N) (h : phasor σ m N = phasor σ n N) : m = n := by
  rw [← mul_one m, ← mul_one n, phasor_mul, phasor_mul] at h
  exact (phasor_one_isPrimitiveRoot hσ hN).pow_inj hm hn h

theorem phasor_half : phasor σ N (2 * N) = -1 := by
  have hsquare : phasor σ N (2 * N) ^ 2 = 1 := by
    rw [← phasor_mul, phasor_full hσ (Nat.mul_ne_zero two_ne_zero hN)]
  refine (sq_eq_one_iff.mp hsquare).resolve_left fun hone => ?_
  have h := phasor_injective hσ (Nat.mul_ne_zero two_ne_zero hN) (m := N) (n := 0) (by omega) (by omega)
    (hone.trans (phasor_zero σ _).symm)
  exact hN h

/-- Going back by `a` places is going on by the remaining `N - a`. -/
theorem phasor_neg_eq {a : Nat} (ha : a ≤ N) (n : Nat) : phasor (-σ) (n * a) N = phasor σ (n * (N - a)) N := by
  have h : phasor σ (n * (N - a)) N * phasor σ (n * a) N = 1 := by
    rw [← phasor_add, ← Nat.mul_add, Nat.sub_add_cancel ha, phasor_mul_full hσ hN]
  rw [phasor_neg, eq_comm]
  exact eq_inv_of_mul_eq_one_left h

end

/-! ### The transform -/

/-- The sum of the `N` values, each turned by `k · n / N` of the circle. -/
noncomputable def dft (σ : ℝ) (N : Nat) (g : Nat → ℂ) (k : Nat) : ℂ :=
  ∑ n ∈ Finset.range N, g n * phasor σ (k * n) N

theorem dft_congr {σ : ℝ} {N : Nat} {g g' : Nat → ℂ} (h : ∀ n, n < N → g n = g' n) (k : Nat) :
    dft σ N g k = dft σ N g' k :=
  Finset.sum_congr rfl fun n hn => by rw [h n (Finset.mem_range.mp hn)]

theorem dft_one (σ : ℝ) (g : Nat → ℂ) (k : Nat) : dft σ 1 g k = g 0 := by
  rw [dft, Finset.sum_range_one, mul_zero, phasor_zero, mul_one]

theorem dft_const_mul (σ : ℝ) (N : Nat) (a : ℂ) (g : Nat → ℂ) (k : Nat) :
    dft σ N (fun n => a * g n) k = a * dft σ N g k := by
  simp only [dft, Finset.mul_sum, mul_assoc]

theorem sum_range_two_mul (f : Nat → ℂ) (h : Nat) : ∑ n ∈ Finset.range (2 * h), f n
    = ∑ m ∈ Finset.range h, f (2 * m) + ∑ m ∈ Finset.range h, f (2 * m + 1) := by
  induction h with
  | zero => simp
  | succ h ih =>
    rw [Nat.mul_succ, Finset.sum_range_succ, Finset.sum_range_succ, ih, Finset.sum_range_succ _ h,
      Finset.sum_range_succ _ h]
    ring

/-- The values with even and with odd index, transformed apart (the step of the fast transform). -/
theorem dft_two_mul (σ : ℝ) (h : Nat) (g : Nat → ℂ) (k : Nat) : dft σ (2 * h) g k
    = dft σ h (fun m => g (2 * m)) k + phasor σ k (2 * h) * dft σ h (fun m => g (2 * m + 1)) k := by
  have heven : ∀ m, phasor σ (k * (2 * m)) (2 * h) = phasor σ (k * m) h := fun m => by
    rw [Nat.mul_left_comm, phasor_scale σ two_ne_zero]
  rw [dft, sum_range_two_mul, dft, dft, Finset.mul_sum]
  congr 1
  · exact Finset.sum_congr rfl fun m _ => by rw [heven]
  · refine Finset.sum_congr rfl fun m _ => ?_
    rw [Nat.mul_succ, phasor_add, heven]
    ring

section
variable {σ : ℝ} {N : Nat} (hσ : σ = 1 ∨ σ = -1) (hN : N ≠ 0)
include hσ hN

theorem dft_add_period (g : Nat → ℂ) (k : Nat) : dft σ N g (k + N) = dft σ N g k :=
  Finset.sum_congr rfl fun n _ => by
    rw [Nat.add_mul, phasor_add, Nat.mul_comm N n, phasor_mul_full hσ hN, mul_one]

/-- Half the circle on, the odd part changes its sign. -/
theorem dft_two_mul_add_half (g : Nat → ℂ) (k : Nat) : dft σ (2 * N) g (k + N)
    = dft σ N (fun m => g (2 * m)) k - phasor σ k (2 * N) * dft σ N (fun m => g (2 * m + 1)) k := by
  rw [dft_two_mul, dft_add_period hσ hN, dft_add_period hσ hN, phasor_add, phasor_half hσ hN]
  ring

/-- The sum of the powers of a phasor that is not 1 is 0. -/
theorem sum_phasor_mul_phasor_neg {m n : Nat} (hm : m < N) (hn : n < N) :
    ∑ k ∈ Finset.range N, phasor σ (k * n) N * phasor (-σ) (m * k) N = if n = m then (N : ℂ) else 0 := by
  have hpow : ∀ k, phasor σ (k * n) N * phasor (-σ) (m * k) N = (phasor σ n N / phasor σ m N) ^ k := fun k => by
    rw [Nat.mul_comm m k, phasor_mul, phasor_mul, phasor_neg, ← mul_pow, div_eq_mul_inv]
  simp only [hpow]
  have hne := phasor_ne_zero σ m N
  split
  · rename_i hnm
    simp [hnm, div_self hne]
  · rename_i hnm
    have hone : phasor σ n N / phasor σ m N ≠ 1 := fun h =>
      hnm (phasor_injective hσ hN hn hm ((div_eq_one_iff_eq hne).mp h))
    have hfull : (phasor σ n N / phasor σ m N) ^ N = 1 := by
      rw [div_pow, ← phasor_mul, ← phasor_mul, Nat.mul_comm N n, Nat.mul_comm N m, phasor_mul_full hσ hN,
        phasor_mul_full hσ hN, div_one]
    rw [geom_sum_eq hone, hfull, sub_self, zero_div]

/-- The transform in the opposite direction restores every value, times `N`. -/
theorem dft_neg_dft (g : Nat → ℂ) {m : Nat} (hm : m < N) : dft (-σ) N (dft σ N g) m = N * g m := by
  calc dft (-σ) N (dft σ N g) m
      = ∑ k ∈ Finset.range N, ∑ n ∈ Finset.range N, g n * (phasor σ (k * n) N * phasor (-σ) (m * k) N) := by
        simp only [dft, Finset.sum_mul, mul_assoc]
    _ = ∑ n ∈ Finset.range N, g n * ∑ k ∈ Finset.range N, phasor σ (k * n) N * phasor (-σ) (m * k) N := by
        rw [Finset.sum_comm]
        simp only [Finset.mul_sum]
    _ = ∑ n ∈ Finset.range N, g n * if n = m then (N : ℂ) else 0 :=
        Finset.sum_congr rfl fun n hn => by
          rw [sum_phasor_mul_phasor_neg hσ hN hm (Finset.mem_range.mp hn)]
    _ = N * g m := by
        simp [hm, mul_comm]

/-- Values that are conjugate in pairs `k`, `N - k` have a real transform. -/
theorem conj_dft {g : Nat → ℂ} (hzero : starRingEnd ℂ (g 0) = g 0)
    (hpair : ∀ k, 1 ≤ k → k < N → starRingEnd ℂ (g k) = g (N - k)) (n : Nat) :
    starRingEnd ℂ (dft σ N g n) = dft σ N g n := by
  have hterm : ∀ k, 1 ≤ k → k < N →
      starRingEnd ℂ (g k * phasor σ (n * k) N) = g (N - k) * phasor σ (n * (N - k)) N := fun k hk hkN => by
    rw [map_mul, hpair k hk hkN, conj_phasor, phasor_neg_eq hσ hN hkN.le]
  obtain ⟨M, rfl⟩ := Nat.exists_eq_succ_of_ne_zero hN
  rw [dft, map_sum, Finset.sum_range_succ', Finset.sum_range_succ', ← Finset.sum_range_reflect _ M]
  congr 1
  · refine Finset.sum_congr rfl fun k hk => ?_
    have hk := Finset.mem_range.mp hk
    have hplace : M.succ - (M - 1 - k + 1) = k + 1 := by omega
    rw [hterm _ (by omega) (by omega), hplace]
  · rw [map_mul, hzero, mul_zero, phasor_zero, map_one]

end

end Sys2Proof
end

section
/-! SUPPORT. The transforms in exact arithmetic (40_transform R108, R109, R112): read over the real numbers, the
stages build up the discrete Fourier transform, span by span. -/

namespace Sys2Proof

open Sys2Proof.Machine

/-! ### Points as complex numbers -/

/-- Point `n` of a list, 0 where there is none. -/
noncomputable def pointAt (x : List (ℝ × ℝ)) (n : Nat) : ℂ :=
  ((x[n]?).map complexOf).getD 0

theorem pointAt_eq {x : List (ℝ × ℝ)} {n : Nat} {z : ℝ × ℝ} (h : x[n]? = some z) : pointAt x n = complexOf z := by
  rw [pointAt, h, Option.map_some, Option.getD_some]

theorem map_complexOf_getElem? {x : List (ℝ × ℝ)} {n : Nat} (h : n < x.length) :
    (x[n]?).map complexOf = some (pointAt x n) := by
  have hsome := List.getElem?_eq_getElem h
  rw [pointAt_eq hsome, hsome, Option.map_some]

theorem complexOf_injective : Function.Injective complexOf := fun _ _ h =>
  Prod.ext (congrArg Complex.re h) (congrArg Complex.im h)

theorem eq_of_pointAt {x y : List (ℝ × ℝ)} {N : Nat} (hx : x.length = N) (hy : y.length = N)
    (h : ∀ n, n < N → pointAt x n = pointAt y n) : x = y := by
  refine List.ext_getElem (hx.trans hy.symm) fun n hnx hny => complexOf_injective ?_
  rw [← pointAt_eq (List.getElem?_eq_getElem hnx), ← pointAt_eq (List.getElem?_eq_getElem hny)]
  exact h n (hnx.trans_eq hx)

theorem complexOf_cadd (u v : ℝ × ℝ) : complexOf (cadd exactArith u v) = complexOf u + complexOf v := rfl

theorem complexOf_csub (u v : ℝ × ℝ) : complexOf (csub exactArith u v) = complexOf u - complexOf v := rfl

theorem complexOf_cmul (u v : ℝ × ℝ) : complexOf (cmul exactArith u v) = complexOf u * complexOf v := rfl

/-- The twiddle is the phasor of `k / s` of the circle (40_transform R103). -/
theorem complexOf_twiddle (σ : ℝ) (k s : Nat) : complexOf (twiddle exactArith σ k s) = phasor σ k s := by
  have hphasor : phasor σ k s = Complex.exp ((σ * (2 * Real.pi) * k / s : ℝ) * Complex.I) := by
    rw [phasor]
    push_cast
    ring_nf
  rw [hphasor]
  exact Complex.ext (Complex.exp_ofReal_mul_I_re _).symm (Complex.exp_ofReal_mul_I_im _).symm

/-! ### The stages -/

section
variable {σ : ℝ} {p : Nat} {x : List (ℝ × ℝ)} (hx : x.length = 2 ^ p)
include hx

theorem pointAt_permute {i : Nat} (hi : i < 2 ^ p) : pointAt (permute p (2 ^ p) x) i = pointAt x (bitrev p i) := by
  rw [pointAt, pointAt, permute_getElem? hx hi]

/-- One stage over the complex numbers (40_transform R104). -/
theorem pointAt_stage {h c k : Nat} (hc : c < 2 ^ p / (2 * h)) (hk : k < h) :
    pointAt (stage exactArith σ (2 ^ p) (2 * h) x) (c * (2 * h) + k)
      = pointAt x (c * (2 * h) + k) + pointAt x (c * (2 * h) + k + h) * phasor σ k (2 * h) ∧
    pointAt (stage exactArith σ (2 ^ p) (2 * h) x) (c * (2 * h) + k + h)
      = pointAt x (c * (2 * h) + k) - pointAt x (c * (2 * h) + k + h) * phasor σ k (2 * h) := by
  have hend : (c + 1) * (2 * h) ≤ 2 ^ p := (Nat.mul_le_mul_right _ hc).trans (Nat.div_mul_le_self _ _)
  rw [Nat.succ_mul, ← hx] at hend
  have hu : x[c * (2 * h) + k]? = some _ := List.getElem?_eq_getElem (by omega)
  have hv : x[c * (2 * h) + k + h]? = some _ := List.getElem?_eq_getElem (by omega)
  obtain ⟨hsum, hdifference⟩ := stage_getElem? exactArith σ hc hk hu hv
  rw [pointAt_eq hsum, pointAt_eq hdifference, pointAt_eq hu, pointAt_eq hv, complexOf_cadd, complexOf_csub,
    complexOf_cmul, complexOf_twiddle]
  exact ⟨rfl, rfl⟩

end

/-- The points that a block of span `2^q` transforms: block `c` of `2^r` takes every `2^r`-th point, from the
reversed index on. -/
noncomputable def blockPoints (x : List (ℝ × ℝ)) (r c m : Nat) : ℂ :=
  pointAt x (bitrev r c + 2 ^ r * m)

/-- The even ones of a block's points are those of the first of its two halves, the odd ones those of the
second. -/
theorem blockPoints_half (x : List (ℝ × ℝ)) (r c m : Nat) {b : Nat} (hb : b < 2) :
    blockPoints x (r + 1) (2 * c + b) m = blockPoints x r c (2 * m + b) := by
  have hmod : (2 * c + b) % 2 = b := by omega
  have hdiv : (2 * c + b) / 2 = c := by omega
  rw [blockPoints, blockPoints, bitrev_succ, hmod, hdiv]
  congr 1
  ring

section
variable {σ : ℝ} (hσ : σ = 1 ∨ σ = -1)
include hσ

/-- A stage joins the transforms of the even and of the odd values, which the halves of a block hold, to the
transform of all. -/
theorem pointAt_stage_eq_dft {p h c k : Nat} {y : List (ℝ × ℝ)} {g : Nat → ℂ} (hy : y.length = 2 ^ p)
    (hc : c < 2 ^ p / (2 * h)) (hk : k < 2 * h)
    (heven : ∀ l, l < h → pointAt y (c * (2 * h) + l) = dft σ h (fun m => g (2 * m)) l)
    (hodd : ∀ l, l < h → pointAt y (c * (2 * h) + l + h) = dft σ h (fun m => g (2 * m + 1)) l) :
    pointAt (stage exactArith σ (2 ^ p) (2 * h) y) (c * (2 * h) + k) = dft σ (2 * h) g k := by
  rcases Nat.lt_or_ge k h with hlow | hhigh
  · rw [(pointAt_stage hy hc hlow).1, heven k hlow, hodd k hlow, dft_two_mul, mul_comm]
  · obtain ⟨l, rfl⟩ := Nat.exists_eq_add_of_le' hhigh
    have hl : l < h := by omega
    rw [← add_assoc, (pointAt_stage hy hc hl).2, heven l hl, hodd l hl,
      dft_two_mul_add_half hσ (Nat.ne_zero_of_lt hl), mul_comm]

/-- After `q` stages every block of span `2^q` holds the transform of its points. -/
theorem pointAt_stages {p q r : Nat} (hp : q + r = p) {x : List (ℝ × ℝ)} (hx : x.length = 2 ^ p) {c k : Nat}
    (hc : c < 2 ^ r) (hk : k < 2 ^ q) :
    pointAt (stages exactArith σ (2 ^ p) q (permute p (2 ^ p) x)) (c * 2 ^ q + k)
      = dft σ (2 ^ q) (blockPoints x r c) k := by
  induction q generalizing r c k with
  | zero =>
    obtain rfl : r = p := by omega
    obtain rfl : k = 0 := by simpa using hk
    rw [pow_zero, dft_one, mul_one, add_zero, blockPoints, mul_zero, add_zero]
    exact pointAt_permute hx hc
  | succ q ih =>
    have hblocks : c < 2 ^ p / (2 * 2 ^ q) := by
      rwa [← hp, ← Nat.pow_succ', Nat.pow_add, Nat.mul_div_cancel_left _ (Nat.two_pow_pos _)]
    have hhalf : ∀ b l, b < 2 → l < 2 ^ q → pointAt (stages exactArith σ (2 ^ p) q (permute p (2 ^ p) x))
        ((2 * c + b) * 2 ^ q + l) = dft σ (2 ^ q) (fun m => blockPoints x r c (2 * m + b)) l := by
      intro b l hb hl
      rw [ih (r := r + 1) (by omega) (by rw [Nat.pow_succ']; omega) hl]
      exact dft_congr (fun m _ => blockPoints_half x r c m hb) l
    rw [stages_succ, Nat.pow_succ']
    refine pointAt_stage_eq_dft hσ (by simp [hx]) hblocks (by rwa [← Nat.pow_succ']) (fun l hl => ?_) fun l hl => ?_
    · exact (congrArg _ (by ring)).trans (hhalf 0 l two_pos hl)
    · exact (congrArg _ (by ring)).trans (hhalf 1 l one_lt_two hl)

/-- The whole transform is the discrete Fourier transform with the direction of its twiddles. -/
theorem pointAt_transform {p : Nat} {x : List (ℝ × ℝ)} (hx : x.length = 2 ^ p) {k : Nat} (hk : k < 2 ^ p) :
    pointAt (transform exactArith σ (2 ^ p) x) k = dft σ (2 ^ p) (pointAt x) k := by
  have h := pointAt_stages hσ (p := p) (q := p) (r := 0) (c := 0) rfl hx (by simp) hk
  rw [zero_mul, zero_add] at h
  rw [transform, Nat.log2_two_pow, h]
  exact dft_congr (fun m _ => by rw [blockPoints, bitrev, pow_zero, one_mul, zero_add]) k

end

/-! ### The two commands -/

theorem complexOf_div (z : ℝ × ℝ) (N : Nat) : complexOf (z.1 / N, z.2 / N) = 1 / N * complexOf z := by
  rw [one_div_mul_eq_div]
  exact Complex.ext (Complex.div_natCast_re (complexOf z) N).symm (Complex.div_natCast_im (complexOf z) N).symm

section
variable {p : Nat} {x : List (ℝ × ℝ)} (hx : x.length = 2 ^ p)
include hx

theorem pointAt_forwardTransform {k : Nat} (hk : k < 2 ^ p) :
    pointAt (forwardTransform exactArith (2 ^ p) x) k = dft (-1) (2 ^ p) (pointAt x) k :=
  pointAt_transform (.inr rfl) hx hk

/-- The inverse transform divides by the number of points (40_transform R105). -/
theorem pointAt_inverseTransform {n : Nat} (hn : n < 2 ^ p) :
    pointAt (inverseTransform exactArith (2 ^ p) x) n
      = 1 / (2 ^ p : Nat) * dft 1 (2 ^ p) (pointAt x) n := by
  have hlen : n < (transform exactArith 1 (2 ^ p) x).length := by simpa [hx]
  have hpoint := List.getElem?_eq_getElem hlen
  have hscaled : (inverseTransform exactArith (2 ^ p) x)[n]? = some _ :=
    (List.getElem?_map ..).trans (congrArg _ hpoint)
  rw [pointAt_eq hscaled, ← pointAt_transform (.inl rfl) hx hn, pointAt_eq hpoint]
  exact complexOf_div _ _

/-- `IFFT` after `FFT`. -/
theorem inverseTransform_forwardTransform :
    inverseTransform exactArith (2 ^ p) (forwardTransform exactArith (2 ^ p) x) = x := by
  have hN : 2 ^ p ≠ 0 := (Nat.two_pow_pos p).ne'
  refine eq_of_pointAt (by simpa) hx fun n hn => ?_
  have hinverse := dft_neg_dft (.inr rfl) hN (pointAt x) hn
  rw [neg_neg] at hinverse
  rw [pointAt_inverseTransform (by simpa) hn, dft_congr (fun k hk => pointAt_forwardTransform hx hk), hinverse,
    one_div_mul_eq_div, mul_div_cancel_left₀ _ (Nat.cast_ne_zero.mpr hN)]

/-- `FFT` after `IFFT`. -/
theorem forwardTransform_inverseTransform :
    forwardTransform exactArith (2 ^ p) (inverseTransform exactArith (2 ^ p) x) = x := by
  have hN : 2 ^ p ≠ 0 := (Nat.two_pow_pos p).ne'
  refine eq_of_pointAt (by simpa) hx fun n hn => ?_
  rw [pointAt_forwardTransform (by simpa) hn, dft_congr (fun k hk => pointAt_inverseTransform hx hk),
    dft_const_mul, dft_neg_dft (.inl rfl) hN (pointAt x) hn, one_div_mul_eq_div,
    mul_div_cancel_left₀ _ (Nat.cast_ne_zero.mpr hN)]

end

theorem phasor_two_pow (σ : ℝ) (k n p : Nat) :
    phasor σ (k * n) (2 ^ p) = Complex.exp (σ * (2 * Real.pi * Complex.I * (k : ℂ) * (n : ℂ) / (2 : ℂ) ^ p)) := by
  rw [phasor]
  push_cast
  ring_nf

theorem dft_eq_list_sum (σ : ℝ) (N : Nat) (g : Nat → ℂ) (k : Nat) :
    dft σ N g k = ((List.range N).map fun n => g n * phasor σ (k * n) N).sum := rfl

/-- Settles O20: the transform with the sign -1 is the discrete Fourier transform. -/
theorem forwardTransformIsDft : Obligations.ForwardTransformIsDft := by
  intro p x hx k hk
  rw [map_complexOf_getElem? (by simpa [hx]), pointAt_forwardTransform hx hk, dft_eq_list_sum]
  refine congrArg some (congrArg List.sum (List.map_congr_left fun n _ => ?_))
  rw [phasor_two_pow, Complex.ofReal_neg, Complex.ofReal_one, neg_one_mul]
  rfl

/-- Settles O21: the transform with the sign 1 is the inverse one, but for the division that follows it. -/
theorem inverseTransformIsInverseDft : Obligations.InverseTransformIsInverseDft := by
  intro p x hx n hn
  rw [map_complexOf_getElem? (by simpa [hx]), pointAt_inverseTransform hx hn, dft_eq_list_sum, Nat.cast_pow,
    Nat.cast_ofNat]
  refine congrArg (fun z => some (_ * z)) (congrArg List.sum (List.map_congr_left fun k _ => ?_))
  rw [Nat.mul_comm n k, phasor_two_pow, Complex.ofReal_one, one_mul]
  rfl

/-- Settles O22: the two transforms turn in opposite directions, and the division takes back the factor
`2^p`. -/
theorem roundTripIsExact : Obligations.RoundTripIsExact := fun _ _ hx =>
  ⟨inverseTransform_forwardTransform hx, forwardTransform_inverseTransform hx⟩

section
variable {p : Nat} {x : List (ℝ × ℝ)} (hx : x.length = 2 ^ p)
include hx

theorem exists_point {k : Nat} (hk : k < 2 ^ p) : ∃ u, x[k]? = some u :=
  ⟨_, List.getElem?_eq_getElem (hk.trans_eq hx.symm)⟩

/-- The points of a Hermitian spectrum, as complex numbers, are conjugate in pairs (40_transform R112). -/
theorem conj_pointAt_pair (hpair : ∀ (k : Nat) (u v : ℝ × ℝ), 1 ≤ k → k < 2 ^ p → x[k]? = some u →
      x[2 ^ p - k]? = some v → v = (u.1, -u.2)) {k : Nat} (hk : 1 ≤ k) (hkN : k < 2 ^ p) :
    starRingEnd ℂ (pointAt x k) = pointAt x (2 ^ p - k) := by
  obtain ⟨u, hu⟩ := exists_point hx hkN
  obtain ⟨v, hv⟩ := exists_point hx (k := 2 ^ p - k) (by omega)
  rw [pointAt_eq hu, pointAt_eq hv, hpair k u v hk hkN hu hv]
  rfl

/-- A spectrum whose points are conjugate in pairs has an inverse transform that is its own conjugate. -/
theorem conj_pointAt_inverseTransform (hzero : starRingEnd ℂ (pointAt x 0) = pointAt x 0)
    (hpair : ∀ k, 1 ≤ k → k < 2 ^ p → starRingEnd ℂ (pointAt x k) = pointAt x (2 ^ p - k)) {n : Nat}
    (hn : n < 2 ^ p) : starRingEnd ℂ (pointAt (inverseTransform exactArith (2 ^ p) x) n)
      = pointAt (inverseTransform exactArith (2 ^ p) x) n := by
  have hN : 2 ^ p ≠ 0 := (Nat.two_pow_pos p).ne'
  rw [pointAt_inverseTransform hx hn, map_mul, conj_dft (.inl rfl) hN hzero hpair, map_div₀, map_one, map_natCast]

end

/-- Settles O23: every point of the inverse transform is its own conjugate, so its imaginary part is 0. -/
theorem hermitianSpectrumGivesRealResponse : Obligations.HermitianSpectrumGivesRealResponse := by
  intro p x hx hpair hzero z hz
  have hconjZero : starRingEnd ℂ (pointAt x 0) = pointAt x 0 := by
    obtain ⟨u, hu⟩ := exists_point hx (Nat.two_pow_pos p)
    rw [pointAt_eq hu, Complex.conj_eq_iff_im]
    exact hzero u hu
  obtain ⟨n, hn, rfl⟩ := List.mem_iff_getElem.mp hz
  have hreal := conj_pointAt_inverseTransform hx hconjZero (fun k => conj_pointAt_pair hx hpair) (n := n)
    (by simpa [hx] using hn)
  rw [pointAt_eq (List.getElem?_eq_getElem hn), Complex.conj_eq_iff_im] at hreal
  exact hreal

end Sys2Proof
end

section
/-! SUPPORT. The next power of two (41_npot R120, R122, R123): smearing fills every bit below the highest bit
that is set, so the word after the increment is 2 to the size of the decremented operand. -/

namespace Sys2Proof.Machine

/-! ### Smearing -/

@[simp] theorem getLsbD_smear (v : IntWord) (k j : Nat) :
    (smear v k).getLsbD j = (v.getLsbD j || v.getLsbD (k + j)) := by
  rw [smear, BitVec.getLsbD_or, BitVec.getLsbD_ushiftRight]

/-- `w` has the bits of `v`, each repeated at the `k - 1` places below it. -/
def SmearedBy (k : Nat) (v w : IntWord) : Prop :=
  ∀ j, w.getLsbD j = true ↔ ∃ i, j ≤ i ∧ i < j + k ∧ v.getLsbD i = true

theorem SmearedBy.self (v : IntWord) : SmearedBy 1 v v := fun j =>
  ⟨fun h => ⟨j, le_rfl, Nat.lt_succ_self j, h⟩, fun ⟨i, hji, hij, h⟩ => by
    obtain rfl : i = j := by omega
    exact h⟩

/-- A smear by as many places as are filled already doubles them. -/
theorem SmearedBy.smear {k : Nat} {v w : IntWord} (hw : SmearedBy k v w) :
    SmearedBy (k + k) v (smear w k) := by
  intro j
  rw [getLsbD_smear, Bool.or_eq_true, hw j, hw (k + j)]
  constructor
  · rintro (⟨i, hji, hij, hi⟩ | ⟨i, hji, hij, hi⟩)
    · exact ⟨i, hji, by omega, hi⟩
    · exact ⟨i, by omega, by omega, hi⟩
  · rintro ⟨i, hji, hij, hi⟩
    rcases Nat.lt_or_ge i (j + k) with hnear | hfar
    · exact .inl ⟨i, hji, hnear, hi⟩
    · exact .inr ⟨i, by omega, by omega, hi⟩

/-- Smeared by its whole width, a word has exactly the bits below its size. -/
theorem SmearedBy.getLsbD_iff {v w : IntWord} (hw : SmearedBy 32 v w) (j : Nat) :
    w.getLsbD j = true ↔ j < v.toNat.size := by
  rw [hw j, Nat.lt_size]
  constructor
  · rintro ⟨i, hji, -, hi⟩
    exact (Nat.pow_le_pow_right two_pos hji).trans (Nat.ge_two_pow_of_testBit hi)
  · intro hv
    obtain ⟨i, hji, hi⟩ := Nat.exists_ge_and_testBit_of_ge_two_pow hv
    have hi32 : i < 32 := BitVec.lt_of_getLsbD hi
    exact ⟨i, hji, by omega, hi⟩

theorem SmearedBy.eq_two_pow_sub_one {v w : IntWord} (hw : SmearedBy 32 v w) :
    w = BitVec.ofNat 32 (2 ^ v.toNat.size - 1) := by
  refine BitVec.eq_of_getLsbD_eq fun j hj => ?_
  rw [BitVec.getLsbD_ofNat, Nat.testBit_two_pow_sub_one, decide_eq_true hj, Bool.true_and, Bool.eq_iff_iff,
    hw.getLsbD_iff, decide_eq_true_iff]

/-! ### The rounded operand -/

/-- The five smears fill 2, 4, 8, 16 and 32 places (41_npot R122's proof sketch). -/
theorem nextPowerOfTwo_eq (n : IntWord) : nextPowerOfTwo n = BitVec.ofNat 32 (2 ^ (n - 1).toNat.size) := by
  have hsmeared := (SmearedBy.self (n - 1)).smear.smear.smear.smear.smear.eq_two_pow_sub_one
  calc nextPowerOfTwo n
    _ = BitVec.ofNat 32 (2 ^ (n - 1).toNat.size - 1) + BitVec.ofNat 32 1 := congrArg (· + 1) hsmeared
    _ = BitVec.ofNat 32 (2 ^ (n - 1).toNat.size - 1 + 1) := (BitVec.ofNat_add ..).symm
    _ = BitVec.ofNat 32 (2 ^ (n - 1).toNat.size) := by rw [Nat.sub_add_cancel Nat.one_le_two_pow]

section
variable {n : IntWord} (hn : 1 ≤ n.toNat)
include hn

/-- The exponent of the result is the least whose power is not below the operand. -/
theorem size_pred_le_iff (e : Nat) : (n - 1).toNat.size ≤ e ↔ n.toNat ≤ 2 ^ e := by
  have hpred : (n - 1).toNat = n.toNat - 1 := by bv_omega
  rw [Nat.size_le, hpred]
  omega

/-- Up to 2^31 the power fits the word (41_npot R122). -/
theorem toNat_nextPowerOfTwo (hmax : n.toNat ≤ 2 ^ 31) :
    (nextPowerOfTwo n).toNat = 2 ^ (n - 1).toNat.size := by
  have hsize : (n - 1).toNat.size < 32 := Nat.lt_succ_of_le ((size_pred_le_iff hn 31).mpr hmax)
  rw [nextPowerOfTwo_eq, BitVec.toNat_ofNat, Nat.mod_eq_of_lt (Nat.pow_lt_pow_right one_lt_two hsize)]

end

/-- Above 2^31 the power is 2^32, which the word holds as 0 (41_npot R123). -/
theorem nextPowerOfTwo_eq_zero {n : IntWord} (h : 2 ^ 31 < n.toNat) : nextPowerOfTwo n = 0 := by
  have hn : 1 ≤ n.toNat := by omega
  have hle : (n - 1).toNat.size ≤ 32 := (size_pred_le_iff hn 32).mpr n.isLt.le
  have hgt : ¬ (n - 1).toNat.size ≤ 31 := (size_pred_le_iff hn 31).not.mpr h.not_ge
  have hsize : (n - 1).toNat.size = 32 := by omega
  rw [nextPowerOfTwo_eq, hsize]
  rfl

/-! ### The command -/

theorem exec_npot (s : State) :
    exec .npot s = .next (State.complete { s with npotOut := nextPowerOfTwo s.npotIn } false) := rfl

/-- Settles O24: the command writes `NPOT_OUT`, then completes, and both leave every other field. -/
theorem npotSmearsItsOperand : Obligations.NpotSmearsItsOperand := by
  have hthousand : nextPowerOfTwo 1000 = 1024 := by decide
  refine ⟨decode_encode .npot, fun s => ⟨_, exec_npot s, ?completed, ?registers, rfl, rfl, rfl,
    fun h => (congrArg nextPowerOfTwo h).trans hthousand, rfl⟩⟩
  case completed => exact ⟨rfl, rfl, rfl, rfl, rfl⟩
  case registers => exact ⟨rfl, rfl, rfl, rfl, rfl, rfl, rfl, rfl, rfl, rfl, rfl, rfl⟩

/-- Settles O25: a power of two is not below the operand if its exponent reaches the size of the decremented
operand, so the one with that exponent is the least. -/
theorem npotRoundsUp : Obligations.NpotRoundsUp := by
  intro s hmin hmax
  refine ⟨_, exec_npot s, ?_⟩
  have hout := toNat_nextPowerOfTwo hmin hmax
  have hle : s.npotIn.toNat ≤ (nextPowerOfTwo s.npotIn).toNat := by
    rw [hout]
    exact (size_pred_le_iff hmin _).mp le_rfl
  have hleast : ∀ e, s.npotIn.toNat ≤ 2 ^ e → (nextPowerOfTwo s.npotIn).toNat ≤ 2 ^ e := by
    intro e he
    rw [hout]
    exact Nat.pow_le_pow_right two_pos ((size_pred_le_iff hmin e).mpr he)
  refine ⟨⟨_, hout⟩, hle, hleast, fun e he => BitVec.eq_of_toNat_eq ?_⟩
  exact le_antisymm ((hleast e he.le).trans_eq he.symm) hle

/-- Settles O26: the five single operands are evaluated; above 2^31 the power does not fit the word. -/
theorem npotCornerCases : Obligations.NpotCornerCases := by
  have hzero : nextPowerOfTwo 0 = 0 := by decide
  have hone : nextPowerOfTwo 1 = 1 := by decide
  have htwo : nextPowerOfTwo 2 = 2 := by decide
  have hthree : nextPowerOfTwo 3 = 4 := by decide
  have htop : nextPowerOfTwo 0x80000000 = 0x80000000 := by decide
  intro s
  have hout {n m : IntWord} (hm : nextPowerOfTwo n = m) (hs : s.npotIn = n) : nextPowerOfTwo s.npotIn = m :=
    (congrArg nextPowerOfTwo hs).trans hm
  exact ⟨_, exec_npot s, hout hzero, hout hone, hout htwo, hout hthree, hout htop, nextPowerOfTwo_eq_zero⟩

end Sys2Proof.Machine
end

section
/-! SUPPORT. The design commands (42_fir_design R131, R136 to R140, R149 to R152): what their checks decide, and
what a design whose checks pass leaves in `TAP`. -/

namespace Sys2Proof.Machine

/-! ### Check 1 -/

/-- What is finite and above `+0.0` is a positive magnitude without sign. -/
theorem isfinite_and_pos_iff (x : F) :
    (isfinite x && flt (.fin false 0) x) = true ↔ ∃ n, 0 < n ∧ x = .fin false n := by
  cases x with
  | nan k => simp [isfinite]
  | inf neg => simp [isfinite]
  | fin neg n => cases neg <;> simp [isfinite, flt, F.rank]

/-- Only the word 0 is all zeros by its fields. -/
theorem word_eq_zero_iff (w : Word) : w = 0 ↔
    w.getLsbD 63 = false ∧ (w.extractLsb' 52 11).toNat = 0 ∧ (w.extractLsb' 0 52).toNat = 0 := by
  constructor
  · rintro rfl
    decide
  · rintro ⟨hsign, hexp, hfrac⟩
    apply BitVec.eq_of_toNat_eq
    rw [toNat_eq_fields, hsign, hexp, hfrac]
    rfl

/-- The patterns of the positive finite values, subnormals among them (42_fir_design R131). -/
theorem exists_pos_fin_iff (w : Word) : (∃ n, 0 < n ∧ F.ofWord w = .fin false n) ↔
    w.getLsbD 63 = false ∧ w.extractLsb' 52 11 ≠ 2047 ∧ w ≠ 0 := by
  have hexp : w.extractLsb' 52 11 = 2047 ↔ (w.extractLsb' 52 11).toNat = 2047 :=
    BitVec.toNat_inj.symm
  rw [ne_eq, ne_eq, hexp, word_eq_zero_iff, F.ofWord]
  generalize w.getLsbD 63 = sign, (w.extractLsb' 52 11).toNat = e, (w.extractLsb' 0 52).toNat = f
  split_ifs with hinf hfrac hsub
  · simp [hinf]
  · simp [hinf]
  · simp only [F.fin.injEq, exists_eq_right_right', hsub, Nat.pos_iff_ne_zero, ne_eq, OfNat.zero_ne_ofNat,
      not_false_eq_true, true_and, not_and]
    tauto
  · simp [hinf, hsub]

theorem State.goodRate_iff (s : State) : s.goodRate = true ↔
    s.srate.getLsbD 63 = false ∧ s.srate.extractLsb' 52 11 ≠ 2047 ∧ s.srate ≠ 0 :=
  (isfinite_and_pos_iff s.sampleRate).trans (exists_pos_fin_iff s.srate)

/-! ### The outcome of the checks -/

section
variable {s : State} {needsF2 f2v : Bool}

theorem State.designCheck_of_badRate (hrate : s.goodRate = false) :
    s.designCheck needsF2 f2v = some .invalidParam := by
  simp [State.designCheck, hrate]

theorem State.designCheck_of_missing (hrate : s.goodRate = true) :
    s.designCheck true false = some .missingParam := by
  simp [State.designCheck, hrate]

theorem State.designCheck_of_given (hrate : s.goodRate = true) (hf2 : needsF2 = true → f2v = true) :
    s.designCheck needsF2 f2v = if 262143 < s.taps.toNat then some .invalidParam else none := by
  have hgiven : (needsF2 && !f2v) = false := by
    cases needsF2 <;> simp_all
  rw [State.designCheck, hrate, hgiven]
  rfl

theorem State.designCheck_passes (hrate : s.goodRate = true) (hf2 : needsF2 = true → f2v = true)
    (hT : s.taps.toNat ≤ 262143) : s.designCheck needsF2 f2v = none := by
  rw [State.designCheck_of_given hrate hf2, if_neg hT.not_gt]

variable (win : Window) (norm kbv : Bool) (ideal : F → Nat → F) (fref : F)

theorem State.runDesign_of_some {e : ErrCode} (h : s.designCheck needsF2 f2v = some e) :
    s.runDesign needsF2 win norm f2v kbv ideal fref = s.raiseError e := by
  simp only [State.runDesign, h]

theorem State.runDesign_of_none (h : s.designCheck needsF2 f2v = none) :
    s.runDesign needsF2 win norm f2v kbv ideal fref
      = s.finishDesign norm fref
          (windowedTaps binary64 win (s.beta kbv) s.tapCount (ideal (centre binary64 s.tapCount))) := by
  simp only [State.runDesign, h]

end

/-! ### What a design writes -/

theorem windowedTaps_binary64 (win : Window) (beta : F) (T : Nat) (ideal : Nat → F) :
    windowedTaps binary64 win beta T ideal = (List.range T).map fun n =>
      fmul (ideal n) (windowValue binary64 win beta (besselI0 binary64 beta) n T) := rfl

/-- Values written to `TAP` by a completion stand there, and nothing else is written. -/
theorem storeTaps_completes (s : State) (f : Nat → F) (T : Nat) (warn : Bool) {t : State}
    (ht : t = (s.storeValues .tap ((List.range T).map f)).complete warn) :
    s.sameRegisters t ∧ t.everFailed = s.everFailed ∧ t.npotOut = s.npotOut ∧
    sameBytesOutside s.mem t.mem [.tap] T ∧
    t.completedOk warn ∧ ∀ n, n < T → ∃ u, readElem t.mem .tap n = (f n).toWord u := by
  subst ht
  refine ⟨⟨rfl, rfl, rfl, rfl, rfl, rfl, rfl, rfl, rfl, rfl, rfl, rfl⟩, rfl, rfl, fun a ha => ?outside,
    ⟨rfl, rfl, rfl, rfl, rfl⟩, fun n hn => ?tap⟩
  case outside =>
    have htap := ha .tap (List.mem_singleton.mpr rfl)
    exact readByte_storeValues_outside s .tap _ (by simpa [elemOffset] using htap)
  case tap =>
    have hread := readElem_storeValues s .tap ((List.range T).map f) (k := n) (by simpa using hn)
    rw [List.getElem_map, List.getElem_range] at hread
    exact ⟨_, hread⟩

/-- The third phase writes the normalised taps if normalisation is asked for and the gain exceeds `EPS`, else
the taps as they are, with a warning if normalisation was asked for (42_fir_design R149, R151). -/
theorem State.finishDesign_eq (s : State) (norm : Bool) (fref : F) (taps : List F) :
    s.finishDesign norm fref taps
      = if norm = true ∧ flt (binary64.const .eps) (referenceGain binary64 fref s.sampleRate taps) = true then
          (s.storeValues .tap (taps.map fun x => fdiv x (referenceGain binary64 fref s.sampleRate taps))).complete
            false
        else (s.storeValues .tap taps).complete norm := by
  cases norm with
  | false => rfl
  | true =>
    rcases normalise_cases binary64 fref s.sampleRate taps with ⟨hgain, hpass⟩ | ⟨hgain, hpass⟩
    · rw [if_pos ⟨rfl, hgain⟩]
      simp only [State.finishDesign, hpass, if_true]
      rfl
    · rw [if_neg fun h => absurd (hgain.symm.trans h.2) (by decide)]
      simp only [State.finishDesign, hpass, if_true]

/-- A design whose checks pass is what its ideal response, window and reference frequency make of the state
(42_fir_design R140). -/
theorem State.runDesign_designedTo {s : State} {needsF2 f2v : Bool} (h : s.designCheck needsF2 f2v = none)
    (win : Window) (norm kbv : Bool) (ideal : F → Nat → F) (fref : F) :
    s.designedTo (s.runDesign needsF2 win norm f2v kbv ideal fref) win norm kbv
      (ideal (centre binary64 s.taps.toNat)) fref := by
  rw [State.runDesign_of_none win norm kbv ideal fref h, State.finishDesign_eq, windowedTaps_binary64,
    List.map_map, State.tapCount]
  simp only [State.designedTo]
  split
  next hnorm => exact storeTaps_completes s _ _ false rfl
  next hnorm => exact storeTaps_completes s _ _ norm rfl

/-! ### The four shapes -/

theorem const_zero_eq : binary64.const .zero = .fin false 0 :=
  ofWord_zero

theorem zeroHz_eq : zeroHz = .fin false 0 :=
  const_zero_eq

theorem State.nyquist_eq (s : State) : s.nyquist = fdiv s.sampleRate (F.ofWord 0x4000000000000000) := by
  rw [State.nyquist, const_eq_ofWord, constWord]

theorem State.bandCentre_eq (s : State) :
    s.bandCentre = fdiv (fadd s.cutoff1 s.cutoff2) (F.ofWord 0x4000000000000000) := by
  rw [State.bandCentre, const_eq_ofWord, constWord]

section
variable (s : State) (win : Window) (norm f2v kbv : Bool)

theorem exec_firlp : exec (.firlp win norm f2v kbv) s
    = .next (s.runDesign false win norm f2v kbv (fun m n => lowpass binary64 m s.fc1 n) (.fin false 0)) := by
  rw [← zeroHz_eq]
  rfl

theorem exec_firhp : exec (.firhp win norm f2v kbv) s
    = .next (s.runDesign false win norm f2v kbv
        (fun m n => fsub (delta binary64 m n) (lowpass binary64 m s.fc1 n))
        (fdiv s.sampleRate (F.ofWord 0x4000000000000000))) := by
  rw [← State.nyquist_eq]
  rfl

theorem exec_firbp : exec (.firbp win norm f2v kbv) s
    = .next (s.runDesign true win norm f2v kbv
        (fun m n => fsub (lowpass binary64 m s.fc2 n) (lowpass binary64 m s.fc1 n))
        (fdiv (fadd s.cutoff1 s.cutoff2) (F.ofWord 0x4000000000000000))) := by
  rw [← State.bandCentre_eq]
  rfl

theorem exec_firbs : exec (.firbs win norm f2v kbv) s
    = .next (s.runDesign true win norm f2v kbv
        (fun m n => fsub (delta binary64 m n) (fsub (lowpass binary64 m s.fc2 n) (lowpass binary64 m s.fc1 n)))
        (.fin false 0)) := by
  rw [← zeroHz_eq]
  rfl

end

/-- A one-cutoff shape needs no `F2V`. -/
theorem oneCutoff_given {f2v : Bool} : false = true → f2v = true := nofun

/-- Settles O27: `FIRLP` is the common algorithm for the lowpass prototype, at 0 Hz. -/
theorem firlpDesignsLowpass : Obligations.FirlpDesignsLowpass := fun s win norm f2v kbv hrate hT =>
  ⟨_, exec_firlp s win norm f2v kbv,
    State.runDesign_designedTo (State.designCheck_passes hrate oneCutoff_given hT) win norm kbv _ _⟩

/-- Settles O28: `FIRHP` is the common algorithm for the impulse less the prototype, at Nyquist. -/
theorem firhpDesignsHighpass : Obligations.FirhpDesignsHighpass := fun s win norm f2v kbv hrate hT =>
  ⟨_, exec_firhp s win norm f2v kbv,
    State.runDesign_designedTo (State.designCheck_passes hrate oneCutoff_given hT) win norm kbv _ _⟩

/-- Settles O29: `FIRBP` is the common algorithm for the difference of two prototypes, at the band centre. -/
theorem firbpDesignsBandpass : Obligations.FirbpDesignsBandpass := fun s win norm kbv hrate hT =>
  ⟨_, exec_firbp s win norm true kbv,
    State.runDesign_designedTo (State.designCheck_passes hrate (fun _ => rfl) hT) win norm kbv _ _⟩

/-- Settles O30: `FIRBS` is the common algorithm for the impulse less the bandpass, at 0 Hz. -/
theorem firbsDesignsBandstop : Obligations.FirbsDesignsBandstop := fun s win norm kbv hrate hT =>
  ⟨_, exec_firbs s win norm true kbv,
    State.runDesign_designedTo (State.designCheck_passes hrate (fun _ => rfl) hT) win norm kbv _ _⟩

/-! ### The checks of any shape -/

/-- Every design command is the common algorithm, with the checks that `designNeeds` tells. -/
theorem exec_eq_runDesign {i : Instr} {needsF2 f2v : Bool} (hi : designNeeds i = some (needsF2, f2v))
    (s : State) : ∃ win norm kbv ideal fref,
      exec i s = .next (s.runDesign needsF2 win norm f2v kbv ideal fref) := by
  cases i with
  | fft => cases hi
  | ifft => cases hi
  | npot => cases hi
  | firlp win norm _ kbv => cases hi; exact ⟨_, _, _, _, _, exec_firlp s win norm _ kbv⟩
  | firhp win norm _ kbv => cases hi; exact ⟨_, _, _, _, _, exec_firhp s win norm _ kbv⟩
  | firbp win norm _ kbv => cases hi; exact ⟨_, _, _, _, _, exec_firbp s win norm _ kbv⟩
  | firbs win norm _ kbv => cases hi; exact ⟨_, _, _, _, _, exec_firbs s win norm _ kbv⟩

/-- A failing check is the whole effect of the command. -/
theorem exec_of_failing_check {i : Instr} {needsF2 f2v : Bool} (hi : designNeeds i = some (needsF2, f2v))
    {s : State} {e : ErrCode} (he : s.designCheck needsF2 f2v = some e) :
    ∃ t, exec i s = .next t ∧ s.failedWith t e := by
  obtain ⟨win, norm, kbv, ideal, fref, hexec⟩ := exec_eq_runDesign hi s
  rw [State.runDesign_of_some win norm kbv ideal fref he] at hexec
  exact ⟨_, hexec, rfl⟩

theorem State.finishDesign_completedOk (s : State) (norm : Bool) (fref : F) (taps : List F) :
    (s.finishDesign norm fref taps).completedOk (s.finishDesign norm fref taps).wns := by
  rw [State.finishDesign_eq]
  split <;> exact ⟨rfl, rfl, rfl, rfl, rfl⟩

/-- Settles O31: the checks come before everything else, and past them the third phase completes. -/
theorem designChecksInOrder : Obligations.DesignChecksInOrder := by
  refine ⟨State.goodRate_iff, fun s i needsF2 f2v hi => ⟨fun hrate => ?rate, fun hrate hneeds hf2v => ?missing,
    fun hrate hf2 hT => ?taps, fun hrate hf2 hT => ?passes⟩⟩
  case rate => exact exec_of_failing_check hi (State.designCheck_of_badRate hrate)
  case missing =>
    subst hneeds hf2v
    exact exec_of_failing_check hi (State.designCheck_of_missing hrate)
  case taps =>
    exact exec_of_failing_check hi ((State.designCheck_of_given hrate hf2).trans (if_pos hT))
  case passes =>
    obtain ⟨win, norm, kbv, ideal, fref, hexec⟩ := exec_eq_runDesign hi s
    rw [State.runDesign_of_none win norm kbv ideal fref (State.designCheck_passes hrate hf2 hT)] at hexec
    exact ⟨_, hexec, State.finishDesign_completedOk s _ _ _⟩

/-! ### No taps -/

theorem fmul_zero_zero : fmul (.fin false 0) (.fin false 0) = .fin false 0 :=
  fmul_zero_right false false 0

theorem fadd_zero_zero : fadd (.fin false 0) (.fin false 0) = .fin false 0 := by
  rw [fadd_fin_eq, if_pos rfl, roundF_zero _ _ one_pos]

theorem cabs_binary64 (z : F × F) :
    cabs binary64 z = fsqrt (fadd (fmul z.1 z.1) (fmul z.2 z.2)) := rfl

/-- The gain of no taps is `+0.0`, at any frequency (42_fir_design R152). -/
theorem referenceGain_nil (fref srate : F) : referenceGain binary64 fref srate [] = .fin false 0 := by
  rw [referenceGain, responseSums, cabs_binary64, const_zero_eq, fmul_zero_zero, fadd_zero_zero, fsqrt_zero]

theorem not_lt_zero_of_fin (n : Nat) : flt (.fin false n) (.fin false 0) = false := by
  simp [flt, F.rank]

theorem not_eps_lt_zero : flt (binary64.const .eps) (.fin false 0) = false := by
  have heps : F.ofWord (constWord .eps) = .fin false ((2 ^ 52 + 0x19799812DEA11) * 2 ^ 982) :=
    ofWord_normal rfl rfl (by norm_num)
  rw [const_eq_ofWord, heps]
  exact not_lt_zero_of_fin _

theorem State.finishDesign_nil (s : State) (norm : Bool) (fref : F) :
    s.finishDesign norm fref [] = s.complete norm := by
  rw [State.finishDesign_eq, referenceGain_nil, not_eps_lt_zero, if_neg fun h => Bool.false_ne_true h.2]
  rfl

theorem State.runDesign_zero_taps {s : State} {needsF2 f2v : Bool} (hrate : s.goodRate = true)
    (hf2 : needsF2 = true → f2v = true) (htaps : s.taps = 0) (win : Window) (norm kbv : Bool)
    (ideal : F → Nat → F) (fref : F) :
    s.runDesign needsF2 win norm f2v kbv ideal fref = s.complete norm := by
  have hT : s.tapCount = 0 := by rw [State.tapCount, htaps]; rfl
  have hcheck := State.designCheck_passes hrate hf2 (hT.trans_le (Nat.zero_le _))
  rw [State.runDesign_of_none win norm kbv ideal fref hcheck, hT]
  exact State.finishDesign_nil s norm fref

/-- Settles O32: the four shapes end in the same state, the completion of the state they started from. -/
theorem zeroTapsWriteNothing : Obligations.ZeroTapsWriteNothing := by
  intro s win norm f2v kbv hrate htaps
  refine ⟨s.complete norm, ⟨rfl, rfl, rfl, rfl, rfl⟩,
    ⟨rfl, rfl, rfl, rfl, rfl, rfl, rfl, rfl, rfl, rfl, rfl, rfl⟩, rfl, rfl, rfl, ?_, ?_, ?_, ?_⟩
  · rw [exec_firlp, State.runDesign_zero_taps hrate oneCutoff_given htaps]
  · rw [exec_firhp, State.runDesign_zero_taps hrate oneCutoff_given htaps]
  · rw [exec_firbp, State.runDesign_zero_taps hrate (fun _ => rfl) htaps]
  · rw [exec_firbs, State.runDesign_zero_taps hrate (fun _ => rfl) htaps]

end Sys2Proof.Machine
end

section
/-! SUPPORT. The signs and the centre of a design in binary64 (42_fir_design R132, R135, R146, R154): where the
unit impulse stands, and what the opposite sign of an operand makes of a result. -/

namespace Sys2Proof.Machine

/-! ### The primitives of the machine -/

theorem binary64_fadd : binary64.fadd = fadd := rfl

theorem binary64_fsub : binary64.fsub = fsub := rfl

theorem binary64_fmul : binary64.fmul = fmul := rfl

theorem binary64_fdiv : binary64.fdiv = fdiv := rfl

theorem binary64_feq : binary64.feq = feq := rfl

theorem binary64_tofloat : binary64.tofloat = tofloat := rfl

/-! ### The centred impulse -/

/-- The units of 0.5. -/
def halfUnits : Nat := 2 ^ 1073

theorem halfUnits_pos : 0 < halfUnits := by
  rw [halfUnits]
  positivity

theorem oneUnits_eq_two_mul : oneUnits = 2 * halfUnits := by
  rw [oneUnits, halfUnits, ← pow_succ']

theorem const_two_eq : binary64.const .two = tofloat 2 := by
  have h : F.ofWord (constWord .two) = .fin false ((2 ^ 52 + 0) * 2 ^ 1023) :=
    ofWord_normal rfl rfl (by norm_num)
  rw [const_eq_ofWord, h, tofloat_eq, oneUnits, add_zero, ← pow_add, ← pow_succ']

/-- Half of an integer below 2^53 is a value of `F`. -/
theorem representable_half {i : Nat} (hi : i < 2 ^ 53) :
    Representable (i * halfUnits) ∧ i * halfUnits < overflowUnits := by
  refine ⟨⟨i, 1073, hi, by rw [halfUnits]⟩, (Nat.mul_lt_mul_of_pos_right hi halfUnits_pos).trans_le ?_⟩
  rw [halfUnits, overflowUnits, ← pow_add]
  exact pow_le_pow_right₀ one_le_two (by norm_num)

/-- The centre is exact: no rounding takes place (42_fir_design R132). -/
theorem centre_binary64 {T : Nat} (hT : T < 2 ^ 53) :
    centre binary64 T = .fin false ((T - 1) * halfUnits) := by
  obtain ⟨hrep, hlt⟩ := representable_half (i := T - 1) (by omega)
  have hpos : 0 < 2 * oneUnits := Nat.mul_pos two_pos oneUnits_pos
  have hunits : (T - 1) * oneUnits * oneUnits = (T - 1) * halfUnits * (2 * oneUnits) := by
    rw [oneUnits_eq_two_mul]
    ring
  rw [centre, binary64_fdiv, binary64_tofloat, const_two_eq, tofloat_eq, tofloat_eq, fdiv_fin_eq hpos.ne', hunits,
    roundF_representable _ hrep hlt hpos, Bool.xor_false]

theorem feq_unsigned (m n : Nat) : feq (.fin false m) (.fin false n) = decide (m = n) := by
  simp [feq, rank_fin]

/-- Index and centre are equal exactly for the middle one of an odd number of taps. -/
theorem feq_tofloat_centre {T : Nat} (n : Nat) (h1 : 1 ≤ T) (hT : T < 2 ^ 53) :
    feq (tofloat n) (centre binary64 T) = decide (2 * n + 1 = T) := by
  rw [centre_binary64 hT, tofloat_eq, feq_unsigned, oneUnits_eq_two_mul, decide_eq_decide, ← mul_assoc,
    Nat.mul_left_inj halfUnits_pos.ne']
  omega

/-- Settles O33: the centre is the index itself exactly for the middle one of an odd number of taps. -/
theorem impulseOnlyAtCentre : Obligations.ImpulseOnlyAtCentre := by
  intro T n h1 hT _
  rw [delta, binary64_feq, binary64_tofloat, feq_tofloat_centre n h1 (by omega), const_zero_eq, const_eq_ofWord,
    constWord]
  simp only [decide_eq_true_eq]

/-! ### Opposite signs -/

theorem negate_fin (neg : Bool) (n : Nat) : (F.fin neg n).negate = .fin (!neg) n := rfl

theorem roundF_not (neg : Bool) (p q : Nat) : roundF (!neg) p q = (roundF neg p q).negate := by
  rw [roundF_eq, roundF_eq]
  unfold finiteOrInf
  split <;> rfl

theorem fsub_fin_self (a : Bool) (m : Nat) : fsub (.fin a m) (.fin a m) = .fin false 0 := by
  rw [fsub_fin_eq, fadd_fin_eq, if_neg (Bool.eq_not_self a).mp, if_neg (lt_irrefl m), if_neg (lt_irrefl m)]

/-- A difference with its operands exchanged is the opposite one, unless they are equal. -/
theorem fsub_fin_swap {a b : Bool} {m n : Nat} (hne : ¬(a = b ∧ m = n)) :
    fsub (.fin b n) (.fin a m) = (fsub (.fin a m) (.fin b n)).negate := by
  rw [fsub_fin_eq, fsub_fin_eq, fadd_fin_eq, fadd_fin_eq]
  by_cases hab : a = b
  · subst hab
    rw [if_neg (Bool.eq_not_self a).mp, if_neg (Bool.eq_not_self a).mp]
    rcases lt_or_gt_of_ne fun h => hne ⟨rfl, h⟩ with h | h
    · rw [if_pos h, if_neg h.not_gt, if_pos h, ← roundF_not, Bool.not_not]
    · rw [if_neg h.not_gt, if_pos h, if_pos h, roundF_not]
  · obtain rfl := Bool.eq_not_of_ne hab
    rw [if_pos (Bool.not_not b).symm, if_pos rfl, add_comm, ← roundF_not, Bool.not_not]

theorem feq_negate_zero : feq (.fin false 0) (F.fin false 0).negate = true := rfl

theorem fsub_inf_inf {a b : Bool} (h : ∀ k, fsub (.inf a) (.inf b) ≠ .nan k) :
    fsub (.inf b) (.inf a) = .inf b ∧ fsub (.inf a) (.inf b) = .inf a ∧ b = !a := by
  cases a <;> cases b
  · exact absurd rfl (h none)
  · exact ⟨rfl, rfl, rfl⟩
  · exact ⟨rfl, rfl, rfl⟩
  · exact absurd rfl (h none)

theorem negate_ne_nan {x : F} (h : ∀ k, x ≠ .nan k) (k : Option Word) : x.negate ≠ .nan k := by
  cases x with
  | nan j => exact absurd rfl (h j)
  | inf neg => exact nofun
  | fin neg n => exact nofun

/-- A difference that is no NaN has the opposite value with its operands exchanged. -/
theorem feq_fsub_swap {x y : F} (h : ∀ k, fsub x y ≠ .nan k) : feq (fsub y x) (fsub x y).negate = true := by
  have hopposite (heq : fsub y x = (fsub x y).negate) : feq (fsub y x) (fsub x y).negate = true :=
    heq.symm ▸ feq_self (negate_ne_nan h)
  cases x with
  | nan k => exact absurd (fadd_nan_left k _) (h none)
  | inf a =>
    cases y with
    | nan k => exact absurd (fadd_nan_right none _) (h none)
    | inf b =>
      obtain ⟨hba, hab, rfl⟩ := fsub_inf_inf h
      exact hopposite (by rw [hba, hab]; rfl)
    | fin b n => exact hopposite rfl
  | fin a m =>
    cases y with
    | nan k => exact absurd (fadd_nan_right none _) (h none)
    | inf b => exact hopposite (congrArg F.inf (Bool.not_not b).symm)
    | fin b n =>
      by_cases heq : a = b ∧ m = n
      · obtain ⟨rfl, rfl⟩ := heq
        rw [fsub_fin_self]
        exact feq_negate_zero
      · exact hopposite (fsub_fin_swap heq)

theorem idealBandpass_binary64 (m fc1 fc2 : F) (n : Nat) :
    idealBandpass binary64 m fc1 fc2 n = fsub (lowpass binary64 m fc2 n) (lowpass binary64 m fc1 n) := by
  rw [idealBandpass, binary64_fsub]

/-- Settles O34: the bandpass response is a difference of two prototypes, and exchanging the cutoffs exchanges
them. -/
theorem exchangedCutoffsNegateBandpass : Obligations.ExchangedCutoffsNegateBandpass := by
  refine ⟨fun m fc1 fc2 n h => ?exchanged, fun m fc n h => ?equal⟩
  case exchanged =>
    simp only [idealBandpass_binary64] at h ⊢
    exact feq_fsub_swap h
  case equal =>
    obtain ⟨neg, k, hk⟩ := isfinite_iff.mp h
    rw [idealBandpass_binary64, hk, fsub_fin_self]

/-! ### The Bessel series -/

theorem fdiv_fin_zero {m : Nat} (hm : m ≠ 0) (a b : Bool) : fdiv (.fin a m) (.fin b 0) = .inf (a ^^ b) := by
  rw [fdiv, if_pos rfl, if_neg hm]

theorem fdiv_negate (x y : F) : fdiv x.negate y = (fdiv x y).negate := by
  cases x with
  | nan k => rw [F.negate, F.anyNan, fdiv_nan_left, fdiv_nan_left]; rfl
  | inf a =>
    cases y with
    | nan k => rfl
    | inf b => rfl
    | fin b n => exact congrArg F.inf (Bool.not_xor a b)
  | fin a m =>
    cases y with
    | nan k => rfl
    | inf b => exact congrArg (F.fin · 0) (Bool.not_xor a b)
    | fin b n =>
      rw [negate_fin]
      rcases eq_or_ne n 0 with rfl | hn
      · rcases eq_or_ne m 0 with rfl | hm
        · rfl
        · rw [fdiv_fin_zero hm, fdiv_fin_zero hm, Bool.not_xor]
          rfl
      · rw [fdiv_fin_eq hn, fdiv_fin_eq hn, Bool.not_xor, roundF_not]

/-- The square of a value does not know its sign. -/
theorem fmul_negate_self (x : F) : fmul x.negate x.negate = fmul x x := by
  cases x with
  | nan k => rw [F.negate, F.anyNan, fmul_nan_left, fmul_nan_left]
  | inf neg => exact congrArg F.inf (Bool.not_xor_not neg neg)
  | fin neg n => rw [negate_fin, fmul_fin_eq, fmul_fin_eq, Bool.not_xor_not]

/-- The series looks at the squares of the quotients of its operand only (42_fir_design R146). -/
theorem besselLoop_congr {α : Type} (A : Arith α) {hx hx' : α}
    (h : ∀ y, A.fmul (A.fdiv hx y) (A.fdiv hx y) = A.fmul (A.fdiv hx' y) (A.fdiv hx' y))
    (fuel k : Nat) (term sum : α) : besselLoop A hx fuel k term sum = besselLoop A hx' fuel k term sum := by
  induction fuel generalizing k term sum with
  | zero => rfl
  | succ fuel ih =>
    simp only [besselLoop]
    rw [h, ih]

/-- Settles O35: the loop is handed half of the operand, with the operand's sign. -/
theorem besselIsEven : Obligations.BesselIsEven := by
  intro x
  refine besselLoop_congr binary64 (fun y => ?_) _ _ _ _
  rw [binary64_fdiv, binary64_fmul, fdiv_negate, fdiv_negate, fmul_negate_self]

end Sys2Proof.Machine
end

section
/-! SUPPORT. The design formulas in exact arithmetic (42_fir_design R132 to R135, R141 to R145, R157): the
prototype and the windows are their formulas over the real numbers, and those are symmetric about the centre. -/

namespace Sys2Proof

open Sys2Proof.Machine

/-! ### The prototype -/

theorem exactArith_centre (T : Nat) : centre exactArith T = ((T - 1 : Nat) : ℝ) / 2 := rfl

theorem exactArith_sinc (x : ℝ) :
    sinc exactArith x = if x = 0 then 1 else Real.sin (Real.pi * x) / (Real.pi * x) := by
  rw [sinc]
  simp only [exactArith, exactConst, decide_eq_true_eq]

theorem exactArith_sinc_neg (x : ℝ) : sinc exactArith (-x) = sinc exactArith x := by
  simp only [exactArith_sinc, neg_eq_zero, mul_neg, Real.sin_neg, neg_div_neg_eq]

theorem exactArith_lowpass (m fc : ℝ) (n : Nat) :
    lowpass exactArith m fc n = 2 * fc * sinc exactArith (2 * fc * (n - m)) := rfl

theorem exactArith_delta (m : ℝ) (n : Nat) : delta exactArith m n = if (n : ℝ) - m = 0 then 1 else 0 := by
  rw [delta]
  simp only [exactArith, exactConst, decide_eq_true_eq, sub_eq_zero]

theorem lowpass_at_centre (m fc : ℝ) {n : Nat} (h : (n : ℝ) = m) : lowpass exactArith m fc n = 2 * fc := by
  rw [exactArith_lowpass, h, sub_self, mul_zero, exactArith_sinc, if_pos rfl, mul_one]

theorem lowpass_off_centre (m fc : ℝ) {n : Nat} (h : (n : ℝ) ≠ m) : lowpass exactArith m fc n
    = Real.sin (2 * Real.pi * fc * (n - m)) / (Real.pi * (n - m)) := by
  have hd : (n : ℝ) - m ≠ 0 := sub_ne_zero.mpr h
  rw [exactArith_lowpass, exactArith_sinc]
  rcases eq_or_ne fc 0 with rfl | hfc
  · simp
  · rw [if_neg (by positivity), show Real.pi * (2 * fc * (n - m)) = 2 * Real.pi * fc * (n - m) by ring]
    field_simp

/-- Settles O59: the quotient of `SIN` cancels the factor `2·fc`, which is 0 only where both sides are. -/
theorem lowpassInRealNumbers : Obligations.LowpassInRealNumbers :=
  ⟨fun T hT => by rw [exactArith_centre, Nat.cast_pred hT],
    fun m fc _ => ⟨lowpass_at_centre m fc, lowpass_off_centre m fc⟩⟩

/-! ### The windows -/

theorem windowValue_one_tap (win : Window) (beta den : ℝ) (n : Nat) :
    windowValue exactArith win beta den n 1 = 1 := rfl

theorem exactArith_windowAngle (n T : Nat) : windowAngle exactArith n T = 2 * Real.pi * n / (T - 1 : Nat) := rfl

section
variable (beta den : ℝ) (n : Nat) {T : Nat} (hT : 2 ≤ T)
include hT

theorem windowValue_rect : windowValue exactArith .rect beta den n T = 1 := by
  rw [windowValue, if_neg (by omega)]
  rfl

theorem windowValue_hann : windowValue exactArith .hann beta den n T
    = 1 / 2 - 1 / 2 * Real.cos (windowAngle exactArith n T) := by
  rw [windowValue, if_neg (by omega)]
  rfl

theorem windowValue_hamming : windowValue exactArith .hamming beta den n T
    = 54 / 100 - 46 / 100 * Real.cos (windowAngle exactArith n T) := by
  rw [windowValue, if_neg (by omega)]
  rfl

theorem windowValue_blackman : windowValue exactArith .blackman beta den n T
    = 42 / 100 - 1 / 2 * Real.cos (windowAngle exactArith n T)
      + 8 / 100 * Real.cos (2 * windowAngle exactArith n T) := by
  rw [windowValue, if_neg (by omega)]
  rfl

theorem windowValue_kaiser : windowValue exactArith .kaiser beta den n T
    = besselI0 exactArith (beta * Real.sqrt (1 - (2 * n / (T - 1 : Nat) - 1) ^ 2)) / den := by
  rw [windowValue, if_neg (by omega), sq]
  rfl

end

/-! ### Symmetry -/

section
variable {T n : Nat} (hn : n < T)
include hn

/-- Tap `T - 1 - n` is as far behind the first one as tap `n` is before the last. -/
theorem cast_mirror : ((T - 1 - n : Nat) : ℝ) = (T - 1 : Nat) - n :=
  Nat.cast_sub (by omega)

theorem mirror_sub_centre : ((T - 1 - n : Nat) : ℝ) - centre exactArith T = -(n - centre exactArith T) := by
  rw [exactArith_centre, cast_mirror hn]
  ring

theorem lowpass_mirror (fc : ℝ) :
    lowpass exactArith (centre exactArith T) fc (T - 1 - n) = lowpass exactArith (centre exactArith T) fc n := by
  rw [exactArith_lowpass, exactArith_lowpass, mirror_sub_centre hn, mul_neg, exactArith_sinc_neg]

theorem delta_mirror :
    delta exactArith (centre exactArith T) (T - 1 - n) = delta exactArith (centre exactArith T) n := by
  simp only [exactArith_delta, mirror_sub_centre hn, neg_eq_zero]

/-- The ideal response of every shape is symmetric, as the prototype and the impulse are. -/
theorem ideal_mirror {fc1 fc2 : ℝ} {ideal : Nat → ℝ}
    (hideal : ideal = idealLowpass exactArith (centre exactArith T) fc1 ∨
      ideal = idealHighpass exactArith (centre exactArith T) fc1 ∨
      ideal = idealBandpass exactArith (centre exactArith T) fc1 fc2 ∨
      ideal = idealBandstop exactArith (centre exactArith T) fc1 fc2) :
    ideal (T - 1 - n) = ideal n := by
  rcases hideal with rfl | rfl | rfl | rfl
  · rw [idealLowpass, idealLowpass, lowpass_mirror hn]
  · rw [idealHighpass, idealHighpass, lowpass_mirror hn, delta_mirror hn]
  · rw [idealBandpass, idealBandpass, lowpass_mirror hn, lowpass_mirror hn]
  · rw [idealBandstop, idealBandstop, lowpass_mirror hn, lowpass_mirror hn, delta_mirror hn]

variable (hT : 2 ≤ T)
include hT

theorem windowAngle_mirror : windowAngle exactArith (T - 1 - n) T = 2 * Real.pi - windowAngle exactArith n T := by
  have hlast : ((T - 1 : Nat) : ℝ) ≠ 0 := Nat.cast_ne_zero.mpr (by omega)
  rw [exactArith_windowAngle, exactArith_windowAngle, cast_mirror hn]
  field_simp

theorem kaiserAbscissa_mirror :
    2 * ((T - 1 - n : Nat) : ℝ) / (T - 1 : Nat) - 1 = -(2 * n / (T - 1 : Nat) - 1) := by
  have hlast : ((T - 1 : Nat) : ℝ) ≠ 0 := Nat.cast_ne_zero.mpr (by omega)
  rw [cast_mirror hn]
  field_simp
  ring

end

theorem windowValue_mirror (win : Window) (beta den : ℝ) {T n : Nat} (hn : n < T) :
    windowValue exactArith win beta den (T - 1 - n) T = windowValue exactArith win beta den n T := by
  rcases Nat.lt_or_ge T 2 with h | hT
  · obtain rfl : T = 1 := by omega
    rw [windowValue_one_tap, windowValue_one_tap]
  · have hcos : Real.cos (windowAngle exactArith (T - 1 - n) T) = Real.cos (windowAngle exactArith n T) := by
      rw [windowAngle_mirror hn hT, Real.cos_two_pi_sub]
    cases win with
    | rect => rw [windowValue_rect beta den _ hT, windowValue_rect beta den _ hT]
    | hann => rw [windowValue_hann beta den _ hT, windowValue_hann beta den _ hT, hcos]
    | hamming => rw [windowValue_hamming beta den _ hT, windowValue_hamming beta den _ hT, hcos]
    | blackman =>
      rw [windowValue_blackman beta den _ hT, windowValue_blackman beta den _ hT, Real.cos_two_mul,
        Real.cos_two_mul, hcos]
    | kaiser =>
      rw [windowValue_kaiser beta den _ hT, windowValue_kaiser beta den _ hT, kaiserAbscissa_mirror hn hT, neg_sq]

theorem windowedTaps_mirror {T n : Nat} (hn : n < T) (win : Window) (beta : ℝ) {ideal : Nat → ℝ}
    (hideal : ideal (T - 1 - n) = ideal n) :
    (windowedTaps exactArith win beta T ideal)[n]? = (windowedTaps exactArith win beta T ideal)[T - 1 - n]? := by
  rw [List.getElem?_eq_getElem (by rwa [windowedTaps_length]),
    List.getElem?_eq_getElem (by rw [windowedTaps_length]; omega), windowedTaps_getElem _ _ _ _ _ hn,
    windowedTaps_getElem _ _ _ _ _ (by omega), hideal, windowValue_mirror win _ _ hn]

/-- Settles O36: response and window are symmetric, and normalisation divides every tap by the same gain. -/
theorem designsAreSymmetric : Obligations.DesignsAreSymmetric := by
  intro win beta fc1 fc2 T n hn ideal hideal
  have htaps := windowedTaps_mirror hn win beta (ideal_mirror hn hideal)
  refine ⟨htaps, fun fref srate scaled hscaled => ⟨?length, ?symmetric⟩⟩
  case length => rw [normalise_length exactArith hscaled, windowedTaps_length]
  case symmetric =>
    rcases normalise_cases exactArith fref srate (windowedTaps exactArith win beta T ideal) with
      ⟨-, hpass⟩ | ⟨-, hpass⟩
    · obtain rfl := Option.some.inj (hpass.symm.trans hscaled)
      rw [List.getElem?_map, List.getElem?_map, htaps]
    · cases hpass.symm.trans hscaled

end Sys2Proof
end

section
/-! SUPPORT. The Bessel series and the reference gain (42_fir_design R146, R149, R151): over the real numbers the
loop of the series stops at a partial sum, and the two sums are the parts of one complex sum. -/

namespace Sys2Proof

open Sys2Proof.Machine

/-! ### The Bessel series -/

/-- Term `k` of the series `Σ ((x/2)^k / k!)²`. -/
noncomputable def besselTerm (x : ℝ) (k : Nat) : ℝ :=
  ((x / 2) ^ k / (Nat.factorial k : ℝ)) ^ 2

/-- The sum of the terms up to term `K`. -/
noncomputable def besselSum (x : ℝ) (K : Nat) : ℝ :=
  ((List.range (K + 1)).map (besselTerm x)).sum

/-- Term `k` is below `1e-12` of the sum with it, where the series is cut. -/
def besselCutAt (x : ℝ) (k : Nat) : Prop :=
  besselTerm x k < 1 / 1000000000000 * besselSum x k

theorem besselTerm_zero (x : ℝ) : besselTerm x 0 = 1 := by
  simp [besselTerm]

theorem besselSum_zero (x : ℝ) : besselSum x 0 = 1 := by
  simp [besselSum, besselTerm_zero]

theorem besselTerm_succ (x : ℝ) (k : Nat) : besselTerm x (k + 1)
    = besselTerm x k * (x / 2 / (k + 1 : Nat) * (x / 2 / (k + 1 : Nat))) := by
  rw [besselTerm, besselTerm, pow_succ (x / 2), Nat.factorial_succ, Nat.cast_mul,
    mul_comm ((k + 1 : Nat) : ℝ), mul_div_mul_comm, mul_pow, sq (x / 2 / _)]

theorem besselSum_succ (x : ℝ) (K : Nat) : besselSum x (K + 1) = besselSum x K + besselTerm x (K + 1) := by
  rw [besselSum, List.range_succ, List.map_append, List.sum_append, List.map_singleton, List.sum_singleton,
    besselSum]

theorem exactArith_besselLoop (hx : ℝ) (fuel k : Nat) (term sum : ℝ) :
    besselLoop exactArith hx (fuel + 1) k term sum
      = if term * (hx / k * (hx / k)) < 1 / 1000000000000 * (sum + term * (hx / k * (hx / k))) then
          sum + term * (hx / k * (hx / k))
        else besselLoop exactArith hx fuel (k + 1) (term * (hx / k * (hx / k))) (sum + term * (hx / k * (hx / k))) :=
  if_congr decide_eq_true_iff rfl rfl

/-- One turn of the loop adds the next term and stops where the series is cut. -/
theorem besselLoop_turn (x : ℝ) (fuel k : Nat) [Decidable (besselCutAt x (k + 1))] :
    besselLoop exactArith (x / 2) (fuel + 1) (k + 1) (besselTerm x k) (besselSum x k)
      = if besselCutAt x (k + 1) then besselSum x (k + 1)
        else besselLoop exactArith (x / 2) fuel (k + 2) (besselTerm x (k + 1)) (besselSum x (k + 1)) := by
  rw [exactArith_besselLoop, ← besselTerm_succ, ← besselSum_succ]
  exact if_congr Iff.rfl rfl rfl

/-- The loop ends with the partial sum up to the first term where the series is cut, or up to the last one it
has fuel for. -/
theorem besselLoop_eq_besselSum (x : ℝ) (fuel k : Nat) :
    ∃ K, k ≤ K ∧ K ≤ k + fuel ∧
      besselLoop exactArith (x / 2) fuel (k + 1) (besselTerm x k) (besselSum x k) = besselSum x K ∧
      (k < K ∧ besselCutAt x K ∨ K = k + fuel) ∧ ∀ j, k < j → j < K → ¬ besselCutAt x j := by
  induction fuel generalizing k with
  | zero => exact ⟨k, le_rfl, le_rfl, rfl, .inr rfl, fun j h h' => absurd h h'.not_gt⟩
  | succ fuel ih =>
    classical
    rw [besselLoop_turn]
    by_cases hcut : besselCutAt x (k + 1)
    · rw [if_pos hcut]
      exact ⟨k + 1, by omega, by omega, rfl, .inl ⟨by omega, hcut⟩, fun j h h' => by omega⟩
    · rw [if_neg hcut]
      obtain ⟨K, hlow, hhigh, hsum, hend, hbefore⟩ := ih (k + 1)
      refine ⟨K, by omega, by omega, hsum, hend.imp (fun h => ⟨by omega, h.2⟩) (by omega), fun j hj hjK => ?_⟩
      rcases eq_or_ne j (k + 1) with rfl | hne
      · exact hcut
      · exact hbefore j (by omega) hjK

theorem besselI0_eq_besselSum (x : ℝ) :
    ∃ K, 1 ≤ K ∧ K ≤ 50 ∧ besselI0 exactArith x = besselSum x K ∧ (besselCutAt x K ∨ K = 50) ∧
      ∀ j, 1 ≤ j → j < K → ¬ besselCutAt x j := by
  obtain ⟨K, -, hhigh, hsum, hend, hbefore⟩ := besselLoop_eq_besselSum x 50 0
  rw [besselTerm_zero, besselSum_zero] at hsum
  exact ⟨K, by omega, by omega, hsum, hend.imp And.right (by omega), hbefore⟩

/-! ### The response sums -/

section
variable {α : Type} (A : Arith α) (wref : α)

/-- What tap `t` of index `n` adds to the two sums (42_fir_design R149). -/
def addResponse (acc : α × α) (n : Nat) (t : α) : α × α :=
  (A.fadd acc.1 (A.fmul t (A.cos (A.fmul wref (A.tofloat n)))),
    A.fsub acc.2 (A.fmul t (A.sin (A.fmul wref (A.tofloat n)))))

/-- The sums are taken in index order; `d` stands for the taps beyond the last, which are not looked at. -/
theorem responseSums_eq_foldl (d : α) (taps : List α) (n : Nat) (acc : α × α) :
    responseSums A wref n taps acc
      = (List.range taps.length).foldl (fun acc i => addResponse A wref acc (n + i) (taps.getD i d)) acc := by
  induction taps generalizing n acc with
  | nil => rfl
  | cons t taps ih =>
    rw [responseSums, ih, List.length_cons, List.range_succ_eq_map, List.foldl_cons, List.foldl_map]
    simp only [List.getD_cons_zero, List.getD_cons_succ, Nat.add_zero, Nat.succ_eq_add_one, Nat.add_assoc,
      Nat.add_comm 1]
    rfl

end

/-- What tap `t` of index `n` contributes to the response, as a complex number. -/
noncomputable def responseTerm (wref : ℝ) (n : Nat) (t : ℝ) : ℂ :=
  (t : ℂ) * Complex.exp (-(Complex.I * (wref : ℂ) * (n : ℂ)))

theorem complexOf_addResponse (wref : ℝ) (acc : ℝ × ℝ) (n : Nat) (t : ℝ) :
    complexOf (addResponse exactArith wref acc n t) = complexOf acc + responseTerm wref n t := by
  have hexp : Complex.exp (-(Complex.I * (wref : ℂ) * (n : ℂ)))
      = Complex.exp ((-(wref * n) : ℝ) * Complex.I) := by
    push_cast
    ring_nf
  rw [responseTerm, hexp]
  apply Complex.ext
  · rw [Complex.add_re, Complex.re_ofReal_mul, Complex.exp_ofReal_mul_I_re, Real.cos_neg]
    rfl
  · rw [Complex.add_im, Complex.im_ofReal_mul, Complex.exp_ofReal_mul_I_im, Real.sin_neg, mul_neg,
      ← sub_eq_add_neg]
    rfl

theorem complexOf_responseSums (wref : ℝ) (taps : List ℝ) (n : Nat) (acc : ℝ × ℝ) :
    complexOf (responseSums exactArith wref n taps acc) = complexOf acc
      + ((List.range taps.length).map fun i => responseTerm wref (n + i) (taps.getD i 0)).sum := by
  rw [responseSums_eq_foldl exactArith wref 0]
  induction List.range taps.length generalizing acc with
  | nil => simp
  | cons i is ih =>
    rw [List.foldl_cons, ih, complexOf_addResponse, List.map_cons, List.sum_cons, add_assoc]

theorem exactArith_cabs (z : ℝ × ℝ) : cabs exactArith z = ‖complexOf z‖ := by
  rw [Complex.norm_def, Complex.normSq_apply]
  rfl

theorem exactArith_referenceGain (fref srate : ℝ) (taps : List ℝ) : referenceGain exactArith fref srate taps
    = ‖((List.range taps.length).map fun n =>
        responseTerm (2 * Real.pi * fref / srate) n (taps.getD n 0)).sum‖ := by
  have hzero : complexOf (exactArith.const .zero, exactArith.const .zero) = 0 := rfl
  rw [referenceGain, exactArith_cabs, complexOf_responseSums, hzero, zero_add]
  simp only [Nat.zero_add]
  rfl

/-- The pass divides by the gain exactly when it exceeds `EPS` (42_fir_design R149, R151). -/
theorem exactArith_normalise (fref srate : ℝ) (taps : List ℝ) :
    (1 / 1000000000000 < referenceGain exactArith fref srate taps →
      normalise exactArith fref srate taps
        = some (taps.map fun t => t / referenceGain exactArith fref srate taps)) ∧
    (¬ 1 / 1000000000000 < referenceGain exactArith fref srate taps →
      normalise exactArith fref srate taps = none) := by
  have hexceeds : exactArith.flt (exactArith.const .eps) (referenceGain exactArith fref srate taps) = true ↔
      1 / 1000000000000 < referenceGain exactArith fref srate taps := decide_eq_true_iff
  rw [← hexceeds]
  rcases normalise_cases exactArith fref srate taps with ⟨hflt, hpass⟩ | ⟨hflt, hpass⟩
  · exact ⟨fun _ => hpass, fun h => absurd hflt h⟩
  · exact ⟨fun h => absurd (hflt.symm.trans h) Bool.false_ne_true, fun _ => hpass⟩

theorem addResponse_binary64 (wref : F) (acc : F × F) (n : Nat) (t : F) : addResponse binary64 wref acc n t
    = (fadd acc.1 (fmul t (cosF (fmul wref (tofloat n)))), fsub acc.2 (fmul t (sinF (fmul wref (tofloat n))))) := rfl

theorem binary64_referenceGain (fref srate : F) (taps : List F) :
    let sums := (List.range taps.length).foldl
      (fun acc n => addResponse binary64 (fdiv (fmul (F.ofWord 0x401921FB54442D18) fref) srate) acc n
        (taps.getD n (.fin false 0))) (.fin false 0, .fin false 0)
    referenceGain binary64 fref srate taps = fsqrt (fadd (fmul sums.1 sums.1) (fmul sums.2 sums.2)) := by
  rw [referenceGain, cabs_binary64, responseSums_eq_foldl binary64 _ (.fin false 0), const_zero_eq, binary64_fdiv,
    binary64_fmul, const_eq_ofWord, constWord]
  simp only [Nat.zero_add]

/-- Settles O60: the windows are read off their definitions; the loop of the series and the sums of the gain are
taken turn by turn. -/
theorem windowsInRealNumbers : Obligations.WindowsInRealNumbers := by
  refine ⟨windowValue_one_tap, fun beta den T n hT _ => ?windows, besselI0_eq_besselSum,
    fun fref srate taps => ?gain, fun fref srate taps => ?sums⟩
  case windows =>
    have hlast : ((T - 1 : Nat) : ℝ) = T - 1 := Nat.cast_pred (by omega)
    have hdouble : 4 * Real.pi * n / (T - 1) = 2 * (2 * Real.pi * n / (T - 1)) := by ring
    rw [windowValue_rect beta den n hT, windowValue_hann beta den n hT, windowValue_hamming beta den n hT,
      windowValue_blackman beta den n hT, windowValue_kaiser beta den n hT, exactArith_windowAngle, hlast, hdouble]
    exact ⟨rfl, rfl, rfl, rfl, rfl⟩
  case gain =>
    have hgain := exactArith_referenceGain fref srate taps
    have hpass := exactArith_normalise fref srate taps
    rw [hgain] at hpass
    exact ⟨hgain, hpass⟩
  case sums =>
    have hgain := binary64_referenceGain fref srate taps
    simp only [addResponse_binary64] at hgain
    exact hgain

end Sys2Proof
end

section
/-! SUPPORT. The two ways a command completes and the code it reports (60_exceptions R170 to R177, R187), and the
step that runs it (10_state R39). -/

namespace Sys2Proof.Machine

/-! ### A command fails as a whole or completes without error -/

/-- What no command touches before it completes: the registers of R177 and the sticky bit. -/
def State.sameButResults (s t : State) : Prop :=
  s.sameRegisters t ∧ t.everFailed = s.everFailed

theorem State.sameButResults_npotOut (s : State) (n : IntWord) : s.sameButResults { s with npotOut := n } :=
  ⟨⟨rfl, rfl, rfl, rfl, rfl, rfl, rfl, rfl, rfl, rfl, rfl, rfl⟩, rfl⟩

theorem State.sameButResults_storeValues (s : State) (b : Buffer) (xs : List F) :
    s.sameButResults (s.storeValues b xs) :=
  ⟨⟨rfl, rfl, rfl, rfl, rfl, rfl, rfl, rfl, rfl, rfl, rfl, rfl⟩, rfl⟩

/-- The execute step either raises an error in the state it started from, or writes results and completes
(60_exceptions R177, R187). -/
theorem Executes.fails_or_completes {s t : State} (h : Executes s t) :
    (∃ e, e ≠ .noError ∧ t = s.raiseError e) ∨ ∃ u warn, s.sameButResults u ∧ t = u.complete warn := by
  cases h with
  | illegal => exact .inl ⟨.illegalCmd, nofun, rfl⟩
  | badLength => exact .inl ⟨.invalidInput, nofun, rfl⟩
  | badDesign i needsF2 f2v e hd hi he =>
    refine .inl ⟨e, ?_, rfl⟩
    rcases State.code_of_designCheck he with rfl | ⟨rfl, -, -⟩ <;> exact nofun
  | transformed _ xs ys => exact .inr ⟨_, _, State.sameButResults_storeValues (s.storeValues .re xs) .im ys, rfl⟩
  | npot => exact .inr ⟨_, _, s.sameButResults_npotOut _, rfl⟩
  | designed _ _ _ _ _ xs => exact .inr ⟨_, _, s.sameButResults_storeValues .tap xs, rfl⟩

/-- Only the execute step that raises `ERR` touches the sticky bit (60_exceptions R178). -/
theorem Executes.everFailed {s t : State} (h : Executes s t) : t.everFailed = (s.everFailed || t.err) := by
  rcases h.fails_or_completes with ⟨e, -, rfl⟩ | ⟨u, warn, ⟨-, hever⟩, rfl⟩
  · exact (Bool.or_true _).symm
  · exact hever.trans (Bool.or_false _).symm

/-- Settles O7: both ways of completing set the flags, and neither touches a register it must keep. -/
theorem executeCompletes : Obligations.ExecuteCompletes := by
  intro s
  obtain ⟨t, ht⟩ := engineStep_next s
  have h := executes_of_engineStep ht
  refine ⟨t, ht, ?_⟩
  have hever := h.everFailed
  rcases h.fails_or_completes with ⟨e, he, rfl⟩ | ⟨u, warn, ⟨hsame, -⟩, rfl⟩
  · exact ⟨rfl, rfl, iff_of_true rfl he, nofun,
      ⟨rfl, rfl, rfl, rfl, rfl, rfl, rfl, rfl, rfl, rfl, rfl, rfl⟩, hever⟩
  · exact ⟨rfl, rfl, iff_of_false nofun (· rfl), fun _ => rfl, hsame, hever⟩

/-- Settles O9: a state with `ERR` is not one that a command has completed without error, so the error was raised
in the state before. -/
theorem errorsArePrecise : Obligations.ErrorsArePrecise := by
  intro s t hstep herr
  rcases (executes_of_engineStep hstep).fails_or_completes with ⟨e, -, rfl⟩ | ⟨u, warn, -, rfl⟩
  · rfl
  · exact absurd herr Bool.false_ne_true

/-! ### The codes of the checks -/

section
variable (s : State) (needsF2 f2v : Bool)

/-- The second check of a design is reported after the rate alone (42_fir_design R131; 60_exceptions R174). -/
theorem State.designCheck_eq_missingParam_iff : s.designCheck needsF2 f2v = some .missingParam ↔
    needsF2 = true ∧ f2v = false ∧ s.goodRate = true := by
  rcases designCheck_cases s needsF2 f2v with ⟨hrate, h⟩ | ⟨hrate, hneeds, hf2v, h⟩ | ⟨-, hf2, -, h⟩ |
    ⟨-, hf2, -, h⟩ <;> rw [h]
  · simp [hrate]
  · simp [hrate, hneeds, hf2v]
  · simpa using fun hneeds hf2v => absurd (hf2 hneeds) (by simp [hf2v])
  · simpa using fun hneeds hf2v => absurd (hf2 hneeds) (by simp [hf2v])

/-- The rate is reported before, the number of taps after the missing `F2` (60_exceptions R173, R176). -/
theorem State.designCheck_eq_invalidParam_iff : s.designCheck needsF2 f2v = some .invalidParam ↔
    s.goodRate = false ∨ ((needsF2 = true → f2v = true) ∧ 262143 < s.taps.toNat) := by
  rcases designCheck_cases s needsF2 f2v with ⟨hrate, h⟩ | ⟨hrate, hneeds, hf2v, h⟩ | ⟨-, hf2, hT, h⟩ |
    ⟨hrate, -, hT, h⟩ <;> rw [h]
  · exact iff_of_true rfl (.inl hrate)
  · simp [hrate, hneeds, hf2v]
  · exact iff_of_true rfl (.inr ⟨hf2, hT⟩)
  · have hT : ¬ 262143 < s.taps.toNat := hT.not_gt
    simp [hrate, hT]

end

/-- What the words in `LASTCMD` can be, by the checks they undergo. -/
theorem decode_classes (w : Word) : (∃ why, decode w = .illegal why) ∨
    (decode w = .command .fft ∨ decode w = .command .ifft) ∨ decode w = .command .npot ∨
    ∃ i needsF2 f2v, decode w = .command i ∧ designNeeds i = some (needsF2, f2v) := by
  cases hd : decode w with
  | illegal why => exact .inl ⟨why, rfl⟩
  | command i =>
    cases i with
    | fft => exact .inr (.inl (.inl rfl))
    | ifft => exact .inr (.inl (.inr rfl))
    | npot => exact .inr (.inr (.inl rfl))
    | _ => exact .inr (.inr (.inr ⟨_, _, _, rfl, rfl⟩))

theorem badLength_pointCount_iff (s : State) :
    badLength s.pointCount = true ↔ ¬ ∃ k, k ≤ 20 ∧ s.len.toNat = 2 ^ k :=
  decide_eq_true_iff.trans (refusedLength_iff _)

theorem runTransform_errcode (f : Nat → List (F × F) → List (F × F)) (s : State) :
    (runTransform f s).errcode = if badLength s.pointCount then .invalidInput else .noError := by
  rcases runTransform_cases f s with ⟨hlen, h⟩ | ⟨hlen, h⟩ <;> rw [h, hlen] <;> rfl

theorem State.runDesign_errcode (s : State) (needsF2 : Bool) (win : Window) (norm f2v kbv : Bool)
    (ideal : F → Nat → F) (fref : F) : (s.runDesign needsF2 win norm f2v kbv ideal fref).errcode
      = (s.designCheck needsF2 f2v).getD .noError := by
  rcases runDesign_cases s needsF2 win norm f2v kbv ideal fref with ⟨e, he, h⟩ | ⟨hcheck, h⟩
  · rw [h, he]
    rfl
  · obtain ⟨-, -, -, hcode, -⟩ := State.finishDesign_completedOk s norm fref
      (windowedTaps binary64 win (s.beta kbv) s.tapCount (ideal (centre binary64 s.tapCount)))
    rw [h, hcheck, hcode]
    rfl

/-! ### The code of the execute step -/

section
variable {s t : State}

theorem errcode_of_illegal {why : Illegal} (hstep : engineStep s = .next t) (hd : decode s.lastcmd = .illegal why) :
    t.errcode = .illegalCmd := by
  simp only [engineStep, hd] at hstep
  cases hstep
  rfl

theorem exec_of_engineStep {i : Instr} (hstep : engineStep s = .next t) (hd : decode s.lastcmd = .command i) :
    exec i s = .next t := by
  simpa only [engineStep, hd] using hstep

theorem errcode_of_transform (hstep : engineStep s = .next t)
    (hd : decode s.lastcmd = .command .fft ∨ decode s.lastcmd = .command .ifft) :
    t.errcode = if badLength s.pointCount then .invalidInput else .noError := by
  rcases hd with hd | hd <;> cases exec_of_engineStep hstep hd <;> exact runTransform_errcode _ s

theorem errcode_of_npot (hstep : engineStep s = .next t) (hd : decode s.lastcmd = .command .npot) :
    t.errcode = .noError := by
  cases exec_of_engineStep hstep hd
  rfl

theorem errcode_of_design_iff {i : Instr} {needsF2 f2v : Bool} (hstep : engineStep s = .next t)
    (hd : decode s.lastcmd = .command i) (hi : designNeeds i = some (needsF2, f2v)) {e : ErrCode}
    (he : e ≠ .noError) : t.errcode = e ↔ s.designCheck needsF2 f2v = some e := by
  obtain ⟨win, norm, kbv, ideal, fref, hexec⟩ := exec_eq_runDesign hi s
  cases hexec.symm.trans (exec_of_engineStep hstep hd)
  rw [State.runDesign_errcode, Option.getD_eq_iff]
  exact or_iff_left fun h => he h.2.symm

end

/-- Settles O8: an illegal word is reported as such, a transform has the check of its length alone, `NPOT` has none,
and a design has its three checks in their order. -/
theorem errorCodesHaveTheirCauses : Obligations.ErrorCodesHaveTheirCauses := by
  intro s t hstep
  rcases decode_classes s.lastcmd with ⟨why, hd⟩ | hd | hd | ⟨i, needsF2, f2v, hd, hi⟩
  · simp [errcode_of_illegal hstep hd, hd]
  · have hcode := errcode_of_transform hstep hd
    rw [← badLength_pointCount_iff, hcode]
    rcases hd with hd | hd <;> cases badLength s.pointCount <;> simp [hd, designNeeds]
  · simp [errcode_of_npot hstep hd, hd, designNeeds]
  · have hcode {e : ErrCode} (he : e ≠ .noError) := errcode_of_design_iff hstep hd hi he
    have hcodes {e : ErrCode} (h : s.designCheck needsF2 f2v = some e) := State.code_of_designCheck h
    rw [hcode (e := .illegalCmd) nofun, hcode (e := .invalidInput) nofun, hcode (e := .missingParam) nofun,
      hcode (e := .invalidParam) nofun, State.designCheck_eq_missingParam_iff, State.designCheck_eq_invalidParam_iff]
    refine ⟨iff_of_false (fun h => ?_) ?_, iff_of_false (fun h => ?_) ?_, ?_, ?_⟩
    · simpa using hcodes h
    · simp [hd]
    · simpa using hcodes h
    · rintro ⟨hfft, -⟩
      simp only [hd, Decoded.command.injEq] at hfft
      rcases hfft with rfl | rfl <;> cases hi
    · simp [hd, hi, and_assoc]
    · refine ⟨fun h => ⟨i, needsF2, f2v, hd, hi, h⟩, ?_⟩
      rintro ⟨i', needsF2', f2v', hd', hi', h⟩
      cases hd.symm.trans hd'
      cases hi.symm.trans hi'
      exact h

/-! ### The step that runs a command -/

/-- The engine's turn is the execute step (70_reset_and_hazards R201; log 9). -/
theorem step_of_engineTurn {s : State} (hbusy : s.busy = true) (hfirst : s.engineGoesFirst = true) :
    step s = engineStep s := by
  rw [step, hbusy, hfirst]
  rfl

theorem step_of_command {s : State} {i : Instr} (hbusy : s.busy = true) (hfirst : s.engineGoesFirst = true)
    (hd : decode s.lastcmd = .command i) : step s = exec i s := by
  rw [step_of_engineTurn hbusy hfirst, engineStep, hd]

theorem engineGoesFirst_withFetchWord (s : State) (nbits w : Nat) :
    (s.withFetchWord nbits w).engineGoesFirst = true := by
  simp only [State.withFetchWord, State.engineGoesFirst]
  cases s.script <;> rfl

/-- Settles O5: a word given to `withFetchWord` is the latched word of a busy engine that goes first. -/
theorem stepRunsDecodedCommand : Obligations.StepRunsDecodedCommand := by
  refine ⟨fun _ _ => step_of_command, fun s w i hd hw => ?_⟩
  refine step_of_command rfl (engineGoesFirst_withFetchWord s 64 w) ?_
  change decode (BitVec.ofNat 64 (w % 2 ^ 64)) = _
  rwa [Nat.mod_eq_of_lt hw]

end Sys2Proof.Machine
end

section
/-! SUPPORT. What the port answers, busy or idle (20_memory R61 to R67; 60_exceptions R180, R181). -/

namespace Sys2Proof.Machine

/-! ### The unmapped offsets -/

/-- The registers end at 0x070 (10_state R20). -/
theorem registerAt_lt {o : Nat} {r : Reg} (h : registerAt o = some r) : o < 0x70 := by
  unfold registerAt at h
  split at h <;> simp_all

theorem registerAt_eq_none_iff {o : Nat} (haligned : o % 8 = 0) : registerAt o = none ↔ 0x70 ≤ o := by
  have hregs : ∀ k < 14, registerAt (8 * k) ≠ none := by decide
  constructor
  · intro h
    by_contra hlt
    obtain ⟨k, rfl⟩ := Nat.dvd_of_mod_eq_zero haligned
    exact hregs k (by omega) h
  · intro h
    by_contra hne
    obtain ⟨r, hr⟩ := Option.ne_none_iff_exists'.mp hne
    exact h.not_gt (registerAt_lt hr)

/-- The three buffers lie one after the other (20_memory R61). -/
theorem locate_eq_none_iff {o : Nat} (haligned : o % 8 = 0) :
    locate o = none ↔ (0x70 ≤ o ∧ o < 0x00800000) ∨ 0x01A00000 ≤ o := by
  have hre : inBuffer .re o = true ↔ 0x00800000 ≤ o ∧ o < 0x01000000 := decide_eq_true_iff
  have him : inBuffer .im o = true ↔ 0x01000000 ≤ o ∧ o < 0x01800000 := decide_eq_true_iff
  have htap : inBuffer .tap o = true ↔ 0x01800000 ≤ o ∧ o < 0x01A00000 := decide_eq_true_iff
  simp only [locate, hre, him, htap]
  split_ifs
  · exact iff_of_false nofun (by omega)
  · exact iff_of_false nofun (by omega)
  · exact iff_of_false nofun (by omega)
  · rw [Option.map_eq_none_iff, registerAt_eq_none_iff haligned]
    omega

theorem reach_eq_none_iff (width : Nat) (o : Offset) : reach width o = none ↔
    width ≠ 8 ∨ o.toNat % 8 ≠ 0 ∨ (0x70 ≤ o.toNat ∧ o.toNat < 0x00800000) ∨ 0x01A00000 ≤ o.toNat := by
  unfold reach
  split_ifs with h
  · rw [locate_eq_none_iff h.2]
    simp [h]
  · simp only [true_iff]
    tauto

/-! ### The answers -/

section
variable {s : State} {width : Nat} {o : Offset}

theorem portRead_of_unmapped (h : reach width o = none) : s.portRead width o = s.respond .busError := by
  simp only [State.portRead, h]

theorem portWrite_of_unmapped (h : reach width o = none) (v : Word) :
    s.portWrite width o v = s.respond .busError := by
  simp only [State.portWrite, h]

theorem portRead_answers_value {l : Location} (h : reach width o = some l) :
    ∃ w, (s.portRead width o).answer = some (.value w) := by
  rcases portRead_cases s width o with ⟨hnone, -⟩ | ⟨r, -, h'⟩ | ⟨b, i, -, -, h'⟩ | ⟨b, i, -, -, h'⟩
  · cases hnone.symm.trans h
  · exact ⟨_, congrArg State.answer h'⟩
  · exact ⟨_, congrArg State.answer h'⟩
  · exact ⟨_, congrArg State.answer h'⟩

theorem portWrite_answers_ok {l : Location} (h : reach width o = some l) (v : Word) :
    (s.portWrite width o v).answer = some .ok := by
  rcases portWrite_cases s width o v with ⟨hnone, -⟩ | ⟨l, -, -, h'⟩ | ⟨l, -, -, h'⟩
  · cases hnone.symm.trans h
  · exact congrArg State.answer h'
  · exact congrArg State.answer h'

end

/-- Settles O47: an access is answered with a bus error exactly when it reaches nothing. -/
theorem busErrorChangesNothing : Obligations.BusErrorChangesNothing := fun _ width o v =>
  ⟨reach_eq_none_iff width o, fun h => ⟨portRead_of_unmapped h, portWrite_of_unmapped h v⟩,
    fun _ h => ⟨portRead_answers_value h, portWrite_answers_ok h v⟩⟩

/-- Settles O45: of the three outcomes of a write, being dropped is the one of a mapped write while busy. -/
theorem busyWriteIsDropped : Obligations.BusyWriteIsDropped := by
  intro s o v l hs hl
  rcases portWrite_cases s 8 o v with ⟨hnone, -⟩ | ⟨-, -, -, h⟩ | ⟨-, -, hidle, -⟩
  · cases hnone.symm.trans hl
  · exact h
  · cases hs.symm.trans hidle

end Sys2Proof.Machine
end

section
/-! SUPPORT. The sticky error bit (60_exceptions R178; 10_state R26; log 25): no step clears it, and an error on
record is in it. -/

namespace Sys2Proof.Machine

/-! ### The host neither raises an error nor touches the bit -/

/-- From `s` to `t` the sticky bit stays and `ERR` is not raised. -/
structure KeepsErrorRecord (s t : State) : Prop where
  everFailed : t.everFailed = s.everFailed
  err : t.err = true → s.err = true

theorem keepsErrorRecord_portRead (s : State) (width : Nat) (o : Offset) :
    KeepsErrorRecord s (s.portRead width o) := by
  rcases portRead_cases s width o with ⟨-, h⟩ | ⟨r, -, h⟩ | ⟨b, i, -, -, h⟩ | ⟨b, i, -, -, h⟩ <;> rw [h] <;>
    exact ⟨rfl, id⟩

theorem keepsErrorRecord_writeReg (s : State) (r : Reg) (v : Word) : KeepsErrorRecord s (s.writeReg r v) := by
  cases r with
  | cmd => exact ⟨rfl, nofun⟩
  | _ => exact ⟨rfl, id⟩

theorem keepsErrorRecord_portWrite (s : State) (width : Nat) (o : Offset) (v : Word) :
    KeepsErrorRecord s (s.portWrite width o v) := by
  rcases portWrite_cases s width o v with ⟨-, h⟩ | ⟨l, -, -, h⟩ | ⟨l, -, -, h⟩ <;> rw [h]
  · exact ⟨rfl, id⟩
  · exact ⟨rfl, id⟩
  · cases l with
    | reg r =>
      obtain ⟨hever, herr⟩ := keepsErrorRecord_writeReg s r v
      exact ⟨hever, herr⟩
    | elem b i => exact ⟨rfl, id⟩

theorem keepsErrorRecord_hostStep (s : State) (a : HostAction) : KeepsErrorRecord s (s.hostStep a) := by
  cases a with
  | read width o => exact keepsErrorRecord_portRead s width o
  | write width o v => exact keepsErrorRecord_portWrite s width o v
  | reset => exact ⟨rfl, nofun⟩

/-! ### One step -/

/-- The engine's turn raises an error or not; any other step leaves the record to be. -/
theorem step_errorRecord {s t : State} (h : step s = .next t) :
    ((s.busy && s.engineGoesFirst) = true ∧ t.everFailed = (s.everFailed || t.err)) ∨
    ((s.busy && s.engineGoesFirst) = false ∧ KeepsErrorRecord s t) := by
  rcases step_cases h with ⟨hbusy, hfirst, hengine⟩ | ⟨hidle, -, rfl⟩ | ⟨turn, rest, hscript, hturn, rfl⟩
  · exact .inl ⟨by rw [hbusy, hfirst]; rfl, (executes_of_engineStep hengine).everFailed⟩
  · exact .inr ⟨by rw [hidle]; rfl, rfl, id⟩
  · obtain ⟨hever, herr⟩ := keepsErrorRecord_hostStep { s with script := rest } turn.action
    refine .inr ⟨?_, hever, herr⟩
    rwa [State.engineGoesFirst, hscript, ← Bool.not_eq_true, Bool.and_eq_true]

theorem step_everFailed {s t : State} (h : step s = .next t) :
    t.everFailed = (s.everFailed || (s.busy && s.engineGoesFirst && t.err)) := by
  rcases step_errorRecord h with ⟨hturn, hever⟩ | ⟨hturn, hever, -⟩ <;> rw [hever, hturn]
  · rfl
  · exact (Bool.or_false _).symm

/-- The bit is never cleared: where it is clear after a step, it was before. -/
theorem everFailed_before_step {s t : State} (h : step s = .next t) (ht : t.everFailed = false) :
    s.everFailed = false := by
  rw [step_everFailed h, Bool.or_eq_false_iff] at ht
  exact ht.1

/-- An error on record is in the sticky bit (60_exceptions R178). -/
def State.errorRecorded (s : State) : Prop :=
  s.err = true → s.everFailed = true

theorem State.err_of_errorRecorded {s : State} (h : s.errorRecorded) (hs : s.everFailed = false) : s.err = false :=
  Bool.eq_false_iff.mpr fun herr => Bool.false_ne_true (hs.symm.trans (h herr))

theorem State.errorRecorded.step {s t : State} (hs : s.errorRecorded) (h : step s = .next t) :
    t.errorRecorded := by
  intro ht
  rcases step_errorRecord h with ⟨-, hever⟩ | ⟨-, hever, herr⟩ <;> rw [hever]
  · rw [ht, Bool.or_true]
  · exact hs (herr ht)

/-! ### A run -/

theorem run_succ_of_step {s u : State} (h : step s = .next u) (k : Nat) :
    Host.Core.run Sys2Proof.core (k + 1) s = Host.Core.run Sys2Proof.core k u := by
  have hcore : Sys2Proof.core.step s = .next u := h
  simp only [Host.Core.run, hcore]

theorem everFailed_before_run {k : Nat} {s t : State} (hrun : Host.Core.run Sys2Proof.core k s = .next t)
    (ht : t.everFailed = false) : s.everFailed = false := by
  induction k generalizing s with
  | zero => cases hrun; exact ht
  | succ k ih =>
    obtain ⟨u, hu⟩ := everyStepAnswersNext s
    rw [run_succ_of_step hu] at hrun
    exact everFailed_before_step hu (ih hrun)

/-- A run that ends with the bit clear has it clear, and so `ERR` too, after each of its beginnings. -/
theorem noError_during_run {k : Nat} {s t : State} (hs : s.errorRecorded)
    (hrun : Host.Core.run Sys2Proof.core k s = .next t) (ht : t.everFailed = false) {j : Nat} (hj : j ≤ k) :
    ∃ u : State, Host.Core.run Sys2Proof.core j s = .next u ∧ u.everFailed = false ∧ u.err = false := by
  induction j generalizing k s with
  | zero =>
    have hclear := everFailed_before_run hrun ht
    exact ⟨s, rfl, hclear, State.err_of_errorRecorded hs hclear⟩
  | succ j ih =>
    obtain ⟨k, rfl⟩ := Nat.exists_eq_succ_of_ne_zero (Nat.ne_zero_of_lt hj)
    obtain ⟨u, hu⟩ := everyStepAnswersNext s
    rw [run_succ_of_step hu] at hrun ⊢
    exact ih (hs.step hu) hrun (Nat.le_of_succ_le_succ hj)

/-- Settles O58: only the engine's turn writes the bit, and a run's end has every error since its beginning. -/
theorem stickyErrorRecord : Obligations.StickyErrorRecord :=
  ⟨fun _ _ => step_everFailed, fun _ _ _ hs hrun ht _ hj => noError_during_run hs hrun ht hj⟩

end Sys2Proof.Machine
end

section
/-! SUPPORT. Reset, and the end of every command (70_reset_and_hazards R190 to R192, R201, R202; 10_state R49). -/

namespace Sys2Proof.Machine

/-! ### Every command ends -/

/-- Every completion clears `BUSY` (60_exceptions R177). -/
theorem Executes.busy {s t : State} (h : Executes s t) : t.busy = false := by
  cases h <;> rfl

@[simp] theorem writeLocation_script (s : State) (l : Location) (v : Word) :
    (s.writeLocation l v).script = s.script := by
  cases l with
  | elem b i => rfl
  | reg r => cases r <;> rfl

@[simp] theorem portRead_script (s : State) (width : Nat) (o : Offset) :
    (s.portRead width o).script = s.script := by
  rcases portRead_cases s width o with ⟨-, h⟩ | ⟨r, -, h⟩ | ⟨b, i, -, -, h⟩ | ⟨b, i, -, -, h⟩ <;> rw [h] <;> rfl

@[simp] theorem portWrite_script (s : State) (width : Nat) (o : Offset) (v : Word) :
    (s.portWrite width o v).script = s.script := by
  rcases portWrite_cases s width o v with ⟨-, h⟩ | ⟨l, -, -, h⟩ | ⟨l, -, -, h⟩ <;> rw [h]
  · rfl
  · rfl
  · exact writeLocation_script s l v

/-- No host action touches the actions still to come (log 9). -/
@[simp] theorem hostStep_script (s : State) (a : HostAction) : (s.hostStep a).script = s.script := by
  cases a with
  | read width o => exact portRead_script s width o
  | write width o v => exact portWrite_script s width o v
  | reset => rfl

/-- A step of a busy engine completes the command, or takes one of the host's actions. -/
theorem step_busy_cases {s : State} (hbusy : s.busy = true) :
    ∃ t, step s = .next t ∧ (t.busy = false ∨ ∃ turn, s.script = turn :: t.script) := by
  obtain ⟨t, hstep⟩ := everyStepAnswersNext s
  refine ⟨t, hstep, ?_⟩
  rcases step_cases hstep with ⟨-, -, hengine⟩ | ⟨hidle, -, rfl⟩ | ⟨turn, rest, hscript, -, rfl⟩
  · exact .inl (executes_of_engineStep hengine).busy
  · exact .inl hidle
  · exact .inr ⟨turn, by rw [hscript, hostStep_script]⟩

/-- Settles O11, by induction on the host actions still to come: once there are none the engine goes first. -/
theorem everyCommandEnds : Obligations.EveryCommandEnds := by
  intro s hbusy
  induction hscript : s.script generalizing s with
  | nil =>
    obtain ⟨t, hstep, hidle | ⟨turn, hturn⟩⟩ := step_busy_cases hbusy
    · exact ⟨1, Nat.le_refl _, t, run_succ_of_step hstep 0, hidle⟩
    · cases hscript.symm.trans hturn
  | cons turn rest ih =>
    obtain ⟨u, hstep, hdone⟩ := step_busy_cases hbusy
    cases hu : u.busy with
    | false => exact ⟨1, Nat.le_add_left _ _, u, run_succ_of_step hstep 0, hu⟩
    | true =>
      obtain ⟨turn', hturn⟩ := hdone.resolve_left (by simp [hu])
      cases hscript.symm.trans hturn
      obtain ⟨k, hk, t, hrun, hidle⟩ := ih u hu rfl
      exact ⟨k + 1, Nat.succ_le_succ hk, t, (run_succ_of_step hstep k).trans hrun, hidle⟩

/-! ### What reset leaves in the buffers -/

/-- Reset writes no buffer but for the abandoned command (70_reset_and_hazards R191). -/
theorem hostStep_reset_mem (s : State) : (s.hostStep .reset).mem = s.abandon.mem := rfl

theorem abandon_of_idle {s : State} (h : s.busy = false) : s.abandon = s := by
  rcases abandon_cases s with ⟨-, h'⟩ | ⟨n, hbusy, -, -⟩ | ⟨n, hbusy, -, -⟩
  · exact h'
  · cases h.symm.trans hbusy
  · cases h.symm.trans hbusy

theorem abandon_of_nothing {s : State} (h : s.activeRange = .nothing) : s.abandon = s := by
  rcases abandon_cases s with ⟨-, h'⟩ | ⟨n, -, hrange, -⟩ | ⟨n, -, hrange, -⟩
  · exact h'
  · cases h.symm.trans hrange
  · cases h.symm.trans hrange

theorem sameBytesOutside_rfl {m : Memory} {bs : List Buffer} {n : Nat} : sameBytesOutside m m bs n :=
  fun _ _ => rfl

theorem readByte_havoc_outside (s : State) (b : Buffer) (n : Nat) {a : Nat}
    (h : a < elemOffset b 0 ∨ elemOffset b n ≤ a) : readByte (s.havoc b n).mem a = readByte s.mem a :=
  readByte_storeElems_outside _ _ _ _ (by simpa using h)

theorem sameBytesOutside_abandon_points {s : State} {n : Nat} (h : s.activeRange = .points n) :
    sameBytesOutside s.mem s.abandon.mem [.re, .im] n := by
  rcases abandon_cases s with ⟨-, h'⟩ | ⟨k, -, hrange, h'⟩ | ⟨k, -, hrange, -⟩
  · rw [h']
    exact sameBytesOutside_rfl
  · cases h.symm.trans hrange
    intro a ha
    rw [h', readByte_havoc_outside _ .im n (ha .im (by simp)), readByte_havoc_outside s .re n (ha .re (by simp))]
  · cases h.symm.trans hrange

theorem sameBytesOutside_abandon_taps {s : State} {n : Nat} (h : s.activeRange = .taps n) :
    sameBytesOutside s.mem s.abandon.mem [.tap] n := by
  rcases abandon_cases s with ⟨-, h'⟩ | ⟨k, -, hrange, -⟩ | ⟨k, -, hrange, h'⟩
  · rw [h']
    exact sameBytesOutside_rfl
  · cases h.symm.trans hrange
  · cases h.symm.trans hrange
    intro a ha
    rw [h', readByte_havoc_outside s .tap n (ha .tap (by simp))]

/-! ### The active range of each kind of command -/

section
variable {s : State}

theorem activeRange_of_transform (hd : decode s.lastcmd = .command .fft ∨ decode s.lastcmd = .command .ifft) :
    s.activeRange = if badLength s.pointCount then .nothing else .points s.pointCount := by
  rcases hd with hd | hd <;> simp only [State.activeRange, hd, State.transformRange]

theorem activeRange_of_design {i : Instr} {needsF2 f2v : Bool} (hd : decode s.lastcmd = .command i)
    (hi : designNeeds i = some (needsF2, f2v)) : s.activeRange = s.designRange needsF2 f2v := by
  cases i with
  | fft | ifft | npot => cases hi
  | _ =>
    cases hi
    simp only [State.activeRange, hd]

theorem activeRange_of_npot (hd : decode s.lastcmd = .command .npot) : s.activeRange = .nothing := by
  simp only [State.activeRange, hd]

theorem activeRange_of_illegal {why : Illegal} (hd : decode s.lastcmd = .illegal why) :
    s.activeRange = .nothing := by
  simp only [State.activeRange, hd]

/-- An abandoned transform leaves every byte beyond its points, and with a refused length every byte
(70_reset_and_hazards R192). -/
theorem abandon_transform (hd : decode s.lastcmd = .command .fft ∨ decode s.lastcmd = .command .ifft) :
    sameBytesOutside s.mem s.abandon.mem [.re, .im] s.pointCount ∧
      (badLength s.pointCount = true → s.abandon = s) := by
  have hrange := activeRange_of_transform hd
  cases hlen : badLength s.pointCount with
  | true =>
    rw [abandon_of_nothing (by simpa [hlen] using hrange)]
    exact ⟨sameBytesOutside_rfl, fun _ => rfl⟩
  | false => exact ⟨sameBytesOutside_abandon_points (by simpa [hlen] using hrange), nofun⟩

/-- An abandoned design leaves every byte beyond its taps, and with a failing check every byte
(70_reset_and_hazards R192). -/
theorem abandon_design {i : Instr} {needsF2 f2v : Bool} (hd : decode s.lastcmd = .command i)
    (hi : designNeeds i = some (needsF2, f2v)) :
    sameBytesOutside s.mem s.abandon.mem [.tap] s.tapCount ∧
      (s.designCheck needsF2 f2v ≠ none → s.abandon = s) := by
  have hrange := activeRange_of_design hd hi
  cases hcheck : s.designCheck needsF2 f2v with
  | some e =>
    rw [abandon_of_nothing (by simpa only [State.designRange, hcheck] using hrange)]
    exact ⟨sameBytesOutside_rfl, fun _ => rfl⟩
  | none =>
    exact ⟨sameBytesOutside_abandon_taps (by simpa only [State.designRange, hcheck] using hrange),
      fun h => absurd rfl h⟩

end

/-- Settles O56: what reset leaves in the buffers is what abandoning the command does, and the kind of the command
decides its active range. -/
theorem resetWhileBusyKeepsOtherElements : Obligations.ResetWhileBusyKeepsOtherElements := by
  intro s _
  rw [hostStep_reset_mem]
  refine ⟨fun hd => ?_, fun i needsF2 f2v hd hi => ?_, fun hd => ?_⟩
  · obtain ⟨hout, hbad⟩ := abandon_transform hd
    exact ⟨hout, fun hlen => congrArg State.mem (hbad ((badLength_pointCount_iff s).mpr hlen))⟩
  · obtain ⟨hout, hfails⟩ := abandon_design hd hi
    exact ⟨hout, fun hcheck => congrArg State.mem (hfails hcheck)⟩
  · rcases hd with hd | ⟨why, hd⟩
    · rw [abandon_of_nothing (activeRange_of_npot hd)]
    · rw [abandon_of_nothing (activeRange_of_illegal hd)]

/-! ### The registers after reset -/

/-- The reset input and power-up leave the same registers (10_state R49). -/
theorem readReg_assertReset (s : State) (r : Reg) : s.assertReset.readReg r = State.reset.readReg r := by
  cases r <;> rfl

/-- `ID` and `LIMITS` are constants; every other register is 0 after reset (10_state R20, R21, R40). -/
theorem readReg_reset_eq_zero {r : Reg} (hid : r ≠ .id) (hlimits : r ≠ .limits) :
    State.reset.readReg r = 0 := by
  cases r with
  | id => exact absurd rfl hid
  | limits => exact absurd rfl hlimits
  | _ => rfl

/-- Settles O55: what holds of the registers after power-up holds after reset, and an idle engine has no command
to abandon. -/
theorem resetValues : Obligations.ResetValues := by
  intro s r hr
  have hkeeps : s.busy = false → (s.hostStep .reset).mem = s.mem := fun hidle => by
    rw [hostStep_reset_mem, abandon_of_idle hidle]
  rcases hr with rfl | rfl
  · exact ⟨rfl, rfl, fun x hid hlimits => (readReg_assertReset s x).trans (readReg_reset_eq_zero hid hlimits),
      rfl, rfl, hkeeps⟩
  · exact ⟨rfl, rfl, fun _ => readReg_reset_eq_zero, rfl, rfl, hkeeps⟩

end Sys2Proof.Machine
end
